-- ==== Sys2Proof/Word.lean ====
section
/-! DEFINITION. The words of the exchange and the fixed sets of names of the manual: bytes, ids of ports, links,
records and cells, parties (sources and destinations), message classes, requests, link symbols; and reading and
writing one place of a vector. -/

namespace Sys2Proof

/-- One byte at a host port, in a cell or in a data symbol. -/
abbrev Byte := BitVec 8

/-- The ten bits of a link symbol in send order, the first sent being bit 9 (R148, R181). -/
abbrev SymbolWord := BitVec 10

/-- Host port HP0 to HP3 (0.6). -/
abbrev PortId := Fin 4

/-- Link port: 0 is LA, 1 is LB (R138). -/
abbrev LinkId := Fin 2

/-- Number of a record in the message record table (R5). -/
abbrev RecId := Fin 128

/-- Number of a cell of the pool (1.1). -/
abbrev CellId := Fin 512

/-- A source or a destination: H0 to H3, LA, LB (0.7). -/
inductive Party where
  | host (k : PortId)
  | link (x : LinkId)
  deriving DecidableEq, Repr

/-- The number 0 to 5 of a source or destination (0.7). -/
def Party.num : Party → Fin 6
  | .host k => ⟨k.val, by omega⟩
  | .link x => ⟨4 + x.val, by omega⟩

/-- The party of a number 0 to 5 (0.7). -/
def Party.ofNum (n : Fin 6) : Party :=
  if h : n.val < 4 then .host ⟨n.val, h⟩ else .link ⟨n.val - 4, by omega⟩

/-- The two message classes (R6). -/
inductive MsgClass where
  | express
  | bulk
  deriving DecidableEq, Repr

/-- The class's code: EXPRESS 0, BULK 1 (0.7, 11.4). -/
def MsgClass.num : MsgClass → Fin 2
  | .express => 0
  | .bulk => 1

/-- One of the twelve queue classes, named by its destination and its class (4.1). -/
structure QueueId where
  dest : Party
  cls : MsgClass
  deriving DecidableEq, Repr

/-- The id of a queue class: the destination number times two plus the class (0.7). -/
def QueueId.num (q : QueueId) : Fin 12 :=
  ⟨2 * q.dest.num.val + q.cls.num.val, by omega⟩

/-- The queue class of an id 0 to 11 (0.7). -/
def QueueId.ofNum (n : Fin 12) : QueueId :=
  { dest := Party.ofNum ⟨n.val / 2, by omega⟩, cls := if n.val % 2 = 0 then .express else .bulk }

/-- The seventeen requests of 5.3. -/
inductive Request where
  | nop
  | post
  | fetch
  | release
  | events
  | mask
  | query
  | claim
  | resign
  | portReset
  | readItem
  | writeItem
  | fence
  | unfence
  | purge
  | drain
  | restart
  deriving DecidableEq, Repr

/-- A link symbol: a data byte or one of the four control symbols (R148). -/
inductive Symbol where
  | data (b : Byte)
  | fill
  | grant
  | eom
  | abm
  deriving DecidableEq, Repr

/-- The two moments of an EOM symbol that decide an outcome: the symbol boundary at which it begins (R171) and
its completion (R169). -/
inductive EomMoment where
  | begins
  | completes
  deriving DecidableEq, Repr

/-- Place `i` of a vector. -/
def vget {α : Type} {n : Nat} (v : Vector α n) (i : Fin n) : α := v[i]

/-- The vector with place `i` replaced by `a`. -/
def vset {α : Type} {n : Nat} (v : Vector α n) (i : Fin n) (a : α) : Vector α n := v.set i.val a i.isLt

@[simp] theorem vget_vset {α : Type} {n : Nat} (v : Vector α n) (i j : Fin n) (a : α) :
    vget (vset v i a) j = if i = j then a else vget v j := by
  simp [vget, vset, Vector.getElem_set, Fin.ext_iff]

theorem vget_replicate {α : Type} {n : Nat} (a : α) (i : Fin n) : vget (Vector.replicate n a) i = a := by
  simp [vget]

theorem vget_ext {α : Type} {n : Nat} {v w : Vector α n} (h : ∀ i, vget v i = vget w i) : v = w := by
  apply Vector.ext
  intro i hi
  exact h ⟨i, hi⟩

end Sys2Proof
end

