-- ==== Sys2Proof/Syntax.lean ====
section
/-! DEFINITION. The commands: one constructor per row of spec/opcode_table.json. `k` is the host port, `x` the link,
`b` the value of the completed in byte or data symbol. `early` says that the first rising clock edge of this in byte
came before its out byte was formed, so that 0xFF was shifted out in place of the formed byte (R81). -/

namespace Sys2Proof

/-- A command to the exchange: one step of the table of operations and events. -/
inductive Instr where
  /-- RESET_N returns every block to its power-on state (R21). -/
  | powerOnReset
  /-- HPk_SEL falls (R83). -/
  | selectFall (k : PortId)
  /-- HPk_SEL rises (R85). -/
  | selectRise (k : PortId)
  /-- In byte 0 completes with a code that is not in the table of 5.3 (R87). -/
  | undefinedRequestCode (k : PortId) (code : Byte) (early : Bool)
  /-- In byte 0 of NOP, 0x00 (R93). -/
  | nop (k : PortId) (early : Bool)
  /-- In byte 5 of POST, the low byte of the length (R100). -/
  | post (k : PortId) (b : Byte) (early : Bool)
  /-- A payload byte of a POST in FILLING (R102). -/
  | postPayloadByte (k : PortId) (b : Byte) (early : Bool)
  /-- The post timer of the port expires (R89). -/
  | postTimeout (k : PortId)
  /-- In byte 1 of FETCH, the flags, with the UQ flag clear (R107). -/
  | fetch (k : PortId) (b : Byte) (early : Bool)
  /-- In byte 1 of FETCH, the flags, with the UQ flag set (R115). -/
  | fetchUq (k : PortId) (b : Byte) (early : Bool)
  /-- In byte 0 of RELEASE, 0x21 (R113). -/
  | release (k : PortId) (early : Bool)
  /-- In byte 0 of EVENTS, 0x30 (R123). -/
  | events (k : PortId) (early : Bool)
  /-- In byte 1 of MASK, the new host mask (R126). -/
  | mask (k : PortId) (b : Byte) (early : Bool)
  /-- In byte 2 of MASK, the new manager mask (R126). -/
  | managerMaskWrite (k : PortId) (b : Byte) (early : Bool)
  /-- In byte 0 of QUERY, 0x40 (R95). -/
  | query (k : PortId) (early : Bool)
  /-- In byte 0 of CLAIM, 0x50 (R131). -/
  | claim (k : PortId) (early : Bool)
  /-- In byte 0 of RESIGN, 0x51 (R133). -/
  | resign (k : PortId) (early : Bool)
  /-- In byte 0 of PORT RESET, 0x52 (R94). -/
  | portReset (k : PortId) (early : Bool)
  /-- In byte 2 of READ ITEM, the index (R135). -/
  | readItem (k : PortId) (b : Byte) (early : Bool)
  /-- In byte 6 of WRITE ITEM, the value byte v3, of an item without behaviour of its own (R136). -/
  | writeItem (k : PortId) (b : Byte) (early : Bool)
  /-- In byte 6 of WRITE ITEM to ROUTE (R44). -/
  | routeWrite (k : PortId) (b : Byte) (early : Bool)
  /-- In byte 6 of WRITE ITEM to PORTADDR (R96). -/
  | portaddrWrite (k : PortId) (b : Byte) (early : Bool)
  /-- In byte 6 of WRITE ITEM to GUARANTEE (R35). -/
  | guaranteeWrite (k : PortId) (b : Byte) (early : Bool)
  /-- In byte 6 of WRITE ITEM to LIMIT (R36). -/
  | limitWrite (k : PortId) (b : Byte) (early : Bool)
  /-- In byte 6 of WRITE ITEM to DEPTH (R63). -/
  | depthWrite (k : PortId) (b : Byte) (early : Bool)
  /-- In byte 6 of WRITE ITEM to RUNLIMIT (R70). -/
  | runlimitWrite (k : PortId) (b : Byte) (early : Bool)
  /-- In byte 6 of WRITE ITEM to POSTTIMEOUT (R139). -/
  | posttimeoutWrite (k : PortId) (b : Byte) (early : Bool)
  /-- In byte 6 of WRITE ITEM to LOWMARK (R139). -/
  | lowmarkWrite (k : PortId) (b : Byte) (early : Bool)
  /-- In byte 6 of WRITE ITEM to LINKCTRL that changes enable from 0 to 1 (R160). -/
  | linkEnable (k : PortId) (b : Byte) (early : Bool)
  /-- In byte 6 of WRITE ITEM to LINKCTRL that changes enable from 1 to 0 (R160). -/
  | linkDisable (k : PortId) (b : Byte) (early : Bool)
  /-- In byte 1 of FENCE, the port to fence (R142). -/
  | fence (k : PortId) (b : Byte) (early : Bool)
  /-- In byte 1 of UNFENCE, the port to unfence (R143). -/
  | unfence (k : PortId) (b : Byte) (early : Bool)
  /-- In byte 1 of PURGE, the target (R144). -/
  | purge (k : PortId) (b : Byte) (early : Bool)
  /-- In byte 1 of DRAIN, the target (R145). -/
  | drain (k : PortId) (b : Byte) (early : Bool)
  /-- In byte 0 of RESTART, 0x7F (R146). -/
  | restart (k : PortId) (early : Bool)
  /-- The transmitter sends FILL at a symbol time (R150). -/
  | sendFill (x : LinkId)
  /-- The transmitter sends one pending GRANT (R166). -/
  | sendGrant (x : LinkId)
  /-- The transmitter sends the next header byte (R169). -/
  | sendHeaderByte (x : LinkId)
  /-- The transmitter sends the next payload byte, or waits with FILL for credit (R167). -/
  | sendPayloadByte (x : LinkId)
  /-- The EOM of the sending record begins (R171) or completes (R169). -/
  | eomSent (x : LinkId) (m : EomMoment)
  /-- The ABM due is sent (R171). -/
  | sendAbm (x : LinkId)
  /-- A valid FILL is received (R151). -/
  | receiveFill (x : LinkId)
  /-- A valid GRANT is received (R155). -/
  | receiveGrant (x : LinkId)
  /-- A data symbol is received that opens a message or is its next header byte (R173). -/
  | receiveHeaderByte (x : LinkId) (b : Byte)
  /-- The data symbol of header byte 6 is received (R174). -/
  | headerStep (x : LinkId) (b : Byte)
  /-- The data symbol of a payload byte is received (R175). -/
  | receivePayloadByte (x : LinkId) (b : Byte)
  /-- A valid EOM is received (R176). -/
  | receiveEom (x : LinkId)
  /-- A valid ABM is received (R177). -/
  | receiveAbm (x : LinkId)
  /-- The ten bits of a symbol that is an error are received (R148). -/
  | symbolError (x : LinkId) (w : SymbolWord)
  /-- The silence timer reaches 4 µs (R156). -/
  | silence (x : LinkId)
  /-- The settle count reaches 0 (R154). -/
  | settleEnd (x : LinkId)
  /-- The hold timer reaches 16 µs (R158). -/
  | holdEnd (x : LinkId)
  /-- An in byte completes (R79). -/
  | inByteCompletion (k : PortId) (b : Byte) (early : Bool)
  deriving DecidableEq, Repr

end Sys2Proof
end

