-- ==== Sys2Proof/Decode.lean ====
section
/-! DEFINITION. Reading bytes and bits: the request codes (5.3), the flags of FETCH (11.2), the control byte (11.4),
two-byte fields (R181), the ten bits of a link symbol (R148, 11.8), and the host's `decodeTableWord`. -/

namespace Sys2Proof

/-- The request of a code in in byte 0, if the table of 5.3 has it. -/
def decodeRequest (b : Byte) : Option Request :=
  if b = 0x00 then some .nop
  else if b = 0x10 then some .post
  else if b = 0x20 then some .fetch
  else if b = 0x21 then some .release
  else if b = 0x30 then some .events
  else if b = 0x31 then some .mask
  else if b = 0x40 then some .query
  else if b = 0x50 then some .claim
  else if b = 0x51 then some .resign
  else if b = 0x52 then some .portReset
  else if b = 0x60 then some .readItem
  else if b = 0x61 then some .writeItem
  else if b = 0x70 then some .fence
  else if b = 0x71 then some .unfence
  else if b = 0x72 then some .purge
  else if b = 0x73 then some .drain
  else if b = 0x7F then some .restart
  else none

/-- The code of a request (5.3). -/
def encodeRequest : Request → Byte
  | .nop => 0x00
  | .post => 0x10
  | .fetch => 0x20
  | .release => 0x21
  | .events => 0x30
  | .mask => 0x31
  | .query => 0x40
  | .claim => 0x50
  | .resign => 0x51
  | .portReset => 0x52
  | .readItem => 0x60
  | .writeItem => 0x61
  | .fence => 0x70
  | .unfence => 0x71
  | .purge => 0x72
  | .drain => 0x73
  | .restart => 0x7F

/-- A 16-bit field sent high byte first (R181). -/
def twoBytes (hi lo : Byte) : Nat := hi.toNat * 256 + lo.toNat

/-- The high byte of a 16-bit field (R181). -/
def hiByte (n : Nat) : Byte := BitVec.ofNat 8 (n / 256)

/-- The low byte of a 16-bit field (R181). -/
def loByte (n : Nat) : Byte := BitVec.ofNat 8 n

/-- The class bit of a control byte: bit 7, 0 EXPRESS, 1 BULK (11.4). -/
def controlClass (b : Byte) : MsgClass := if b.getLsbD 7 then .bulk else .express

/-- The hop limit of a control byte: bits 3 to 0 (11.4). -/
def controlHops (b : Byte) : BitVec 4 := b.extractLsb' 0 4

/-- The control byte of a class and a hop limit, bits 6 to 4 sent as 0 (R180, 11.4). -/
def controlByte (c : MsgClass) (hops : BitVec 4) : Byte :=
  (match c with
    | .express => 0x00
    | .bulk => 0x80) ||| hops.setWidth 8

/-- The auto-release flag of FETCH: bit 0 (11.2). -/
def autoReleaseFlag (b : Byte) : Bool := b.getLsbD 0

/-- The UQ flag of FETCH: bit 1 (11.2). -/
def uqFlag (b : Byte) : Bool := b.getLsbD 1

/-- Whether the number of ones of a symbol's bits is odd (R148). -/
def oddOnes (w : SymbolWord) : Bool :=
  (List.range 10).foldl (fun p i => p ^^ w.getLsbD i) false

/-- A symbol's ten bits from its kind bit and its value, the parity bit making the ones odd (R148, 11.8). -/
def symbolBits (control : Bool) (value : Byte) : SymbolWord :=
  let w : SymbolWord := BitVec.ofBool control ++ value ++ 0#1
  if oddOnes w then w else w ||| 1

/-- The value of a control symbol: the code in bits 3 to 0, its complement in bits 7 to 4 (11.8). -/
def controlValue (code : BitVec 4) : Byte := (~~~code) ++ code

/-- The ten bits of a symbol in send order (R148, 11.8). -/
def encodeSymbol : Symbol → SymbolWord
  | .data b => symbolBits false b
  | .fill => symbolBits true (controlValue 1)
  | .grant => symbolBits true (controlValue 2)
  | .eom => symbolBits true (controlValue 3)
  | .abm => symbolBits true (controlValue 4)

/-- The control symbol of a code; a code of 0 or of 5 to 15 is none (R148). -/
def controlSymbol (code : BitVec 4) : Option Symbol :=
  if code = 1 then some .fill
  else if code = 2 then some .grant
  else if code = 3 then some .eom
  else if code = 4 then some .abm
  else none

/-- The valid symbol that ten received bits are, or none for a symbol error (R148): a parity error, a complement
that does not match, or an undefined code. -/
def decodeSymbol (w : SymbolWord) : Option Symbol :=
  let value : Byte := w.extractLsb' 1 8
  if oddOnes w = false then none
  else if w.getLsbD 9 = false then some (.data value)
  else if value = controlValue (value.extractLsb' 0 4) then controlSymbol (value.extractLsb' 0 4)
  else none

/-- The command that a table word spells. spec/opcode_table.json gives no row any bits ("fields" is empty in all 53
rows), so no word spells a command (log 28). -/
def decodeTableWord (_nbits _w : Nat) : Option Instr := none

end Sys2Proof
end

