-- ==== Sys2Proof/Config.lean ====
section
/-! DEFINITION. What the manual fixes as numbers of the part, and the one free value of the model. -/

namespace Sys2Proof.Config

/-- Bytes of a cell (1.1). -/
abbrev cellBytes : Nat := 32

/-- Cells of the pool (1.1). -/
abbrev cellCount : Nat := 512

/-- Places of the undeliverable queue (R53). -/
abbrev uqCapacity : Nat := 8

/-- The depth budget: the most the twelve depth limits may total (R62). -/
abbrev depthBudget : Nat := 114

/-- The longest message (R6). -/
abbrev maxLength : Nat := 1024

/-- The most credit a transmitter holds (R155). -/
abbrev maxCredit : Nat := 16

/-- FREE VALUE (log 7). Which of the contenders that meet at the accounts after one event (the CELLS watches, the
reserve ones of LA and of LB) is taken first at the `n`-th contention: R28 and R31 say that either may be. Its value
modulo the number of contenders picks one. Nothing in Lean can evaluate it. -/
opaque freeTie : Nat → Nat

end Sys2Proof.Config
end

