-- ==== Sys2Proof/Machine/State.lean ====
section
/-! DEFINITION. The state of the exchange as plain data, every piece of it named by a rule of spec/, the faults and
refusals of a step, and the state after power-on reset. INVENTORY.md lists each field with its rule and reset value. -/

namespace Sys2Proof.Machine

/-! ### The Message Store (chapter 1) -/

/-- Where a record is committed, or DROP (R6). -/
inductive Target where
  | queue (q : QueueId)
  | uq
  | drop
  deriving DecidableEq, Repr

/-- Why a message is undeliverable (R6, R55). -/
inductive Reason where
  | noRoute
  | hops
  | full
  | resends
  deriving DecidableEq, Repr

/-- The four states of a record in use (1.4). -/
inductive RecState where
  | assembling
  | queued
  | loaned
  | sending
  deriving DecidableEq, Repr

/-- A record in use (R6). -/
structure Record where
  origin : Party
  srcAddr : Byte
  dstAddr : Byte
  tag : Byte
  cls : MsgClass
  hops : BitVec 4
  length : Nat
  filled : Nat
  cells : List CellId
  target : Target
  reason : Option Reason
  state : RecState
  resends : Nat
  deriving DecidableEq, Repr

/-- The bytes of the cell pool: (address, byte) pairs, addresses rising, no byte equal to what an unlisted address
reads as (log 2). Byte `o` of cell `c` is at address 32c + o. -/
abbrev Memory := List Host.Cell

/-! ### The Router (chapter 3) -/

/-- A route entry (R42). -/
structure RouteEntry where
  valid : Bool
  address : Byte
  primary : Party
  alternate : Option Party
  deriving DecidableEq, Repr

/-! ### The Queue Unit (chapters 3 and 4) -/

/-- A queue class: its committed records, oldest first, the places reserved in it, and its depth limit (R60 to R62). -/
structure QueueClass where
  recs : List RecId
  reserved : Nat
  depth : Nat
  deriving DecidableEq, Repr

/-- The undeliverable queue (R53). -/
structure UndeliverableQueue where
  recs : List RecId
  reserved : Nat
  deriving DecidableEq, Repr

/-! ### Host ports (chapters 2, 5, 6, 7) -/

/-- The transaction state of a port; a running transaction has its request (R83). -/
inductive TxState where
  | idle
  | opened
  | running (r : Request)
  | ended
  deriving DecidableEq, Repr

/-- The phase of a POST transaction (R99). -/
inductive PostPhase where
  | noPost
  | header
  | filling
  | refused
  deriving DecidableEq, Repr

/-- A refusal watch (R37). -/
inductive Watch where
  | absent
  | cells (n : Nat)
  | depth (q : QueueId)
  deriving DecidableEq, Repr

/-- The queue that holds a loaned record: a class of the port's own inbox, or the UQ (R106). -/
inductive LoanQueue where
  | inbox (c : MsgClass)
  | uq
  deriving DecidableEq, Repr

/-- A loan: the record lent and the queue that holds it (R106). -/
structure Loan where
  recId : RecId
  queue : LoanQueue
  deriving DecidableEq, Repr

/-- The snapshot of an open EVENTS transaction: each part with its late raises; the manager part may be absent (R123). -/
structure Snapshot where
  host : Byte
  hostLate : Byte
  mgr : Option (Byte × Byte)
  deriving DecidableEq, Repr

/-- The state of one host port. -/
structure Port where
  /-- HPk_SEL is low (R78). -/
  selLow : Bool
  /-- The transaction state (R83). -/
  tx : TxState
  /-- In bytes completed in this transaction (R79). -/
  inCount : Nat
  /-- The in bytes the request keeps, in byte 1 first (R99, R136). -/
  inBytes : List Byte
  /-- The out byte on HPk_DO; none is high impedance (R78, R80). -/
  outFormed : Option Byte
  /-- The byte shifted out during the last completed in byte (R79, R81). -/
  outShifted : Option Byte
  /-- Positions of this transaction at which 0xFF was shifted out in place of the formed byte (R81). -/
  spoilt : List Nat
  /-- Out bytes sampled with a snapshot and not formed yet, next first (R95, R123, R135). -/
  replyRest : List Byte
  /-- The readout record of a FETCH answered MESSAGE (R107). -/
  readout : Option RecId
  /-- The auto-release flag of this FETCH (R107). -/
  autoRelease : Bool
  /-- The POST phase (R99). -/
  phase : PostPhase
  /-- The post timer: stopped, or running with the value in ms it was started with (R88). -/
  timer : Option Nat
  /-- The refusal watch (R37). -/
  watch : Watch
  /-- The fence flag (R90). -/
  fenced : Bool
  /-- The loan (R106). -/
  loan : Option Loan
  /-- The port address (R96). -/
  portAddr : Byte
  /-- The host event set (R118). -/
  hostSet : Byte
  /-- The host mask (R121). -/
  hostMask : Byte
  /-- The snapshot of an open EVENTS transaction (R123). -/
  snapshot : Option Snapshot
  deriving DecidableEq, Repr

/-! ### Link ports (chapters 9 and 10) -/

/-- The four link states (9.2). -/
inductive LinkState where
  | off
  | start
  | active
  | hold
  deriving DecidableEq, Repr

/-- The last fault of a link (R149, R157). -/
inductive LinkFault where
  | noFault
  | silence
  | symbol
  | order
  | credit
  | frame
  deriving DecidableEq, Repr

/-- Where the current HOLD leaves to (R149, R158). -/
inductive HoldExit where
  | autoRestart
  | start
  deriving DecidableEq, Repr

/-- The transmitter's progress in a frame (R168): the next header byte 1 to 6, the next payload byte, the EOM next, or
the EOM begun and not complete (R171). -/
inductive Progress where
  | header (i : Nat)
  | payload (j : Nat)
  | eom
  | eomBegun
  deriving DecidableEq, Repr

/-- The sending record of a transmitter with its progress (R168). -/
structure Sending where
  recId : RecId
  progress : Progress
  deriving DecidableEq, Repr

/-- The LINKCTRL item of a link (R138). -/
structure LinkCtrl where
  enable : Bool
  autoRestart : Bool
  rate : Nat
  window : Nat
  resendLimit : Nat
  deriving DecidableEq, Repr

/-- The state of one link port, with its reserved list (R3) and its LINKCTRL item. -/
structure Link where
  ctrl : LinkCtrl
  /-- The link state (R149). -/
  state : LinkState
  /-- The operating rate code, 0 to 4 (R149, R161). -/
  opRate : Nat
  /-- FILLs sent since entry to START, held at 8 (R149). -/
  fillsSent : Nat
  /-- A valid FILL was received since entry to START (R149). -/
  fillSeen : Bool
  /-- FILLs still to send before the first non-FILL symbol in ACTIVE (R149, R154). -/
  settle : Nat
  /-- The silence timer runs (R156). -/
  silence : Bool
  /-- The hold timer runs (R158). -/
  holdTimer : Bool
  /-- The hold exit (R158). -/
  holdExit : HoldExit
  /-- Credit held (R155). -/
  credit : Nat
  /-- Pending GRANTs (R166). -/
  pendingGrants : Nat
  /-- An ABM is owed on the line (R171). -/
  abmDue : Bool
  /-- The receiver has an inbound message open (R151, R173). -/
  isOpen : Bool
  /-- The last fault (R157). -/
  lastFault : LinkFault
  /-- The reserved list, oldest first (R3). -/
  reserved : List CellId
  /-- The sending record and its progress (R168). -/
  sending : Option Sending
  /-- The header bytes received, header byte 1 first (R173). -/
  hdr : List Byte
  /-- The symbol last sent on the line (R150, log 24). -/
  lastSymbol : Option Symbol
  deriving DecidableEq, Repr

/-! ### The whole exchange -/

/-- The state of the exchange. -/
structure State where
  /-- Bytes of the cell pool (R1, R8). -/
  mem : Memory
  /-- The free list, front first (R1). -/
  free : List CellId
  /-- The record table (R5). -/
  records : Vector (Option Record) 128
  /-- The assembly slot of each source, by its number (R9). -/
  slots : Vector (Option RecId) 6
  /-- G[s] (R23). -/
  guarantee : Vector Nat 6
  /-- L[s] (R23). -/
  limit : Vector Nat 6
  /-- u[s] (R23). -/
  usage : Vector Nat 6
  /-- The route table (R42). -/
  routes : Vector RouteEntry 32
  /-- The twelve queue classes, by id (R60). -/
  classes : Vector QueueClass 12
  /-- The undeliverable queue (R53). -/
  uq : UndeliverableQueue
  /-- The express run counter of each destination (R70). -/
  runCount : Vector Nat 6
  /-- The run limit of each destination (R70). -/
  runLimit : Vector Nat 6
  /-- The four host ports. -/
  ports : Vector Port 4
  /-- The two link ports. -/
  links : Vector Link 2
  /-- The manager event set (R120). -/
  mgrSet : Byte
  /-- The manager mask (R121). -/
  mgrMask : Byte
  /-- The manager slot (R130). -/
  manager : Option PortId
  /-- The low mark (R139). -/
  lowMark : Nat
  /-- The POSTTIMEOUT setting in ms (R139). -/
  postTimeout : Nat
  /-- The model's own: contentions settled so far (log 7). -/
  ties : Nat
  /-- The model's own: the links whose reserve ones are left to be made after the claim, discard or write that comes
  between (log 29). -/
  owed : List LinkId
  /-- The model's own: the class that was full for the POST that waits next, before the fall just taken (log 30). -/
  ahead : Option QueueId
  /-- The model's own: the commands waiting, first in, first out (log 6). -/
  pending : List Instr
  deriving DecidableEq, Repr

/-- Why a step stops the machine. -/
inductive Fault where
  /-- Raised by POST (R100) and the header step of a link (R174): a record is needed and all 128 are in use. The manual
  shows that at most 124 are ever in use (1.2, R62), so no run reaches it. Safe: the model stops and invents nothing
  (log 10). -/
  | recordTableFull
  deriving DecidableEq, Repr

/-- Why a command is refused. -/
inductive Refusal where
  /-- Raised by `exec` alone, for a command without a meaning yet; safe. Every command of the table has its meaning, so
  no arm raises it. -/
  | notModelled (mnemonic : String)
  deriving DecidableEq, Repr

/-- A port after power-on reset, but for its address (R97, R116, R128). Its select pin is taken to be high (log 1). -/
def Port.reset (addr : Byte) : Port where
  selLow := false
  tx := .idle
  inCount := 0
  inBytes := []
  outFormed := none
  outShifted := none
  spoilt := []
  replyRest := []
  readout := none
  autoRelease := false
  phase := .noPost
  timer := none
  watch := .absent
  fenced := false
  loan := none
  portAddr := addr
  hostSet := 0
  hostMask := 0
  snapshot := none

/-- A link after power-on reset (R149, R163, R179). -/
def Link.reset : Link where
  ctrl := { enable := false, autoRestart := false, rate := 0, window := 8, resendLimit := 3 }
  state := .off
  opRate := 0
  fillsSent := 0
  fillSeen := false
  settle := 0
  silence := false
  holdTimer := false
  holdExit := .autoRestart
  credit := 0
  pendingGrants := 0
  abmDue := false
  isOpen := false
  lastFault := .noFault
  reserved := []
  sending := none
  hdr := []
  lastSymbol := none

/-- A default route entry to host `k` (R43). -/
def RouteEntry.toHost (valid : Bool) (address : Byte) (k : PortId) : RouteEntry where
  valid := valid
  address := address
  primary := .host k
  alternate := none

/-- The route table after power-on reset (R43). -/
def resetRoutes : Vector RouteEntry 32 :=
  #v[RouteEntry.toHost true 0xF0 0, RouteEntry.toHost true 0xF1 1, RouteEntry.toHost true 0xF2 2,
    RouteEntry.toHost true 0xF3 3] ++ Vector.replicate 28 (RouteEntry.toHost false 0x00 0)

/-- All 512 cells in ascending order (R21). -/
def allCells : List CellId := List.finRange 512

/-- The machine right after power-on reset (R21, R40, R43, R58, R76, R97, R116, R128, R147, R163, R179). -/
def State.reset : State where
  mem := []
  free := allCells
  records := Vector.replicate 128 none
  slots := Vector.replicate 6 none
  guarantee := Vector.replicate 6 32
  limit := Vector.replicate 6 256
  usage := Vector.replicate 6 0
  routes := resetRoutes
  classes := Vector.replicate 12 { recs := [], reserved := 0, depth := 8 }
  uq := { recs := [], reserved := 0 }
  runCount := Vector.replicate 6 0
  runLimit := Vector.replicate 6 4
  ports := #v[Port.reset 0xF0, Port.reset 0xF1, Port.reset 0xF2, Port.reset 0xF3]
  links := Vector.replicate 2 Link.reset
  mgrSet := 0
  mgrMask := 0
  manager := none
  lowMark := 0
  postTimeout := 20
  ties := 0
  owed := []
  ahead := none
  pending := []

end Sys2Proof.Machine
end

