-- ==== Sys2Proof/Machine/Codes.lean ====
section
/-! DEFINITION. The codes of 11.5: statuses, reasons, link states, last faults and watch kinds. -/

namespace Sys2Proof.Machine

/-- The status codes. -/
inductive Status where
  | taken
  | done
  | message
  | empty
  | noRoute
  | full
  | noCells
  | hops
  | length
  | fenced
  | notManager
  | held
  | noLoan
  | range
  | duplicate
  | conflict
  | readOnly
  | self
  | unknown
  deriving DecidableEq, Repr

/-- The code of a status (11.5). -/
def Status.code : Status → Byte
  | .taken => 0x01
  | .done => 0x01
  | .message => 0x02
  | .empty => 0x03
  | .noRoute => 0x04
  | .full => 0x05
  | .noCells => 0x06
  | .hops => 0x07
  | .length => 0x08
  | .fenced => 0x09
  | .notManager => 0x0A
  | .held => 0x0B
  | .noLoan => 0x0C
  | .range => 0x0D
  | .duplicate => 0x0E
  | .conflict => 0x0F
  | .readOnly => 0x10
  | .self => 0x11
  | .unknown => 0x12

/-- The code of a reason in FETCH out byte 9 (11.5). -/
def reasonCode : Option Reason → Byte
  | none => 0x00
  | some .noRoute => 0x01
  | some .hops => 0x02
  | some .full => 0x03
  | some .resends => 0x04

/-- The code of a link state (11.5). -/
def LinkState.code : LinkState → Byte
  | .off => 0x00
  | .start => 0x01
  | .active => 0x02
  | .hold => 0x03

/-- The code of a last fault (11.5). -/
def LinkFault.code : LinkFault → Byte
  | .noFault => 0x00
  | .silence => 0x01
  | .symbol => 0x02
  | .order => 0x03
  | .credit => 0x04
  | .frame => 0x05

/-- The code of a watch kind (11.5). -/
def Watch.code : Watch → Byte
  | .absent => 0x00
  | .cells _ => 0x01
  | .depth _ => 0x02

end Sys2Proof.Machine
end

