-- ==== Sys2Proof/Machine/Flags.lean ====
section
/-! DEFINITION. Event kinds, event sets and masks, raising a kind, the snapshot's late raises, and the attention line
(chapter 7, 11.3). -/

namespace Sys2Proof.Machine

/-- The eight host event kinds (R119). -/
inductive HostEvent where
  | arrived
  | room
  | postAborted
  | loanLost
  | fenceChanged
  | purged
  | restarted
  | protocol
  deriving DecidableEq, Repr

/-- The bit of a host event kind in the host event byte and the host mask (11.3). -/
def HostEvent.bit : HostEvent → Byte
  | .arrived => 0x01
  | .room => 0x02
  | .postAborted => 0x04
  | .loanLost => 0x08
  | .fenceChanged => 0x10
  | .purged => 0x20
  | .restarted => 0x40
  | .protocol => 0x80

/-- The eight manager event kinds; UP and DOWN are one kind for each link (R120). -/
inductive MgrEvent where
  | linkUp (x : LinkId)
  | linkDown (x : LinkId)
  | undeliverable
  | undeliverableDropped
  | linkDiscard
  | cellsLow
  deriving DecidableEq, Repr

/-- The bit of a manager event kind in the manager event byte and the manager mask (11.3). -/
def MgrEvent.bit : MgrEvent → Byte
  | .linkUp 0 => 0x01
  | .linkUp 1 => 0x02
  | .linkDown 0 => 0x04
  | .linkDown 1 => 0x08
  | .undeliverable => 0x10
  | .undeliverableDropped => 0x20
  | .linkDiscard => 0x40
  | .cellsLow => 0x80

/-- A raise taken while the snapshot stands: the kind joins the late raises of the host part if that part holds it
(R123). -/
def Snapshot.noteHost (sn : Snapshot) (bit : Byte) : Snapshot :=
  { sn with hostLate := sn.hostLate ||| (sn.host &&& bit) }

/-- The same for the manager part, if it is present (R123). -/
def Snapshot.noteMgr (sn : Snapshot) (bit : Byte) : Snapshot :=
  { sn with mgr := sn.mgr.map fun p => (p.1, p.2 ||| (p.1 &&& bit)) }

/-- A kind raised on a port (R118): it becomes set, and an open snapshot notes it (R123). -/
def Port.raise (p : Port) (e : HostEvent) : Port :=
  { p with hostSet := p.hostSet ||| e.bit, snapshot := p.snapshot.map (·.noteHost e.bit) }

/-- The part of a manager raise that concerns a port: its open snapshot notes it (R123). -/
def Port.noteMgr (p : Port) (e : MgrEvent) : Port :=
  { p with snapshot := p.snapshot.map (·.noteMgr e.bit) }

/-- Raise a manager event kind (R120). -/
def State.raiseMgr (s : State) (e : MgrEvent) : State :=
  { s with mgrSet := s.mgrSet ||| e.bit, ports := s.ports.map (·.noteMgr e) }

/-- The set of an event snapshot part less its late raises, taken out of an event set (R124). -/
def clearSnapshot (set part late : Byte) : Byte := set &&& ~~~(part &&& ~~~late)

/-- Whether HPk_ATN is asserted (R122). -/
def State.attention (s : State) (k : PortId) : Bool :=
  ((vget s.ports k).hostSet &&& (vget s.ports k).hostMask) != 0 ||
    (s.manager == some k && (s.mgrSet &&& s.mgrMask) != 0)

end Sys2Proof.Machine
end

