-- ==== Sys2Proof/Machine/Parts.lean ====
section
/-! DEFINITION. Reading and writing one piece of the state. -/

namespace Sys2Proof.Machine

/-- Port `k`. -/
def State.port (s : State) (k : PortId) : Port := vget s.ports k

/-- Port `k` replaced. -/
def State.setPort (s : State) (k : PortId) (p : Port) : State := { s with ports := vset s.ports k p }

/-- Link `x`. -/
def State.link (s : State) (x : LinkId) : Link := vget s.links x

/-- Link `x` replaced. -/
def State.setLink (s : State) (x : LinkId) (l : Link) : State := { s with links := vset s.links x l }

/-- Record `n`, none when free (R5). -/
def State.record (s : State) (n : RecId) : Option Record := vget s.records n

/-- Record `n` replaced. -/
def State.setRecord (s : State) (n : RecId) (r : Option Record) : State := { s with records := vset s.records n r }

/-- The assembly slot of a source (R9). -/
def State.slot (s : State) (p : Party) : Option RecId := vget s.slots p.num

/-- The assembly slot of a source replaced. -/
def State.setSlot (s : State) (p : Party) (o : Option RecId) : State := { s with slots := vset s.slots p.num o }

/-- A queue class (R60). -/
def State.qclass (s : State) (q : QueueId) : QueueClass := vget s.classes q.num

/-- A queue class replaced. -/
def State.setClass (s : State) (q : QueueId) (c : QueueClass) : State := { s with classes := vset s.classes q.num c }

/-- u[p] (R23). -/
def State.used (s : State) (p : Party) : Nat := vget s.usage p.num

/-- u[p] replaced. -/
def State.setUsed (s : State) (p : Party) (n : Nat) : State := { s with usage := vset s.usage p.num n }

/-- G[p] (R23). -/
def State.guar (s : State) (p : Party) : Nat := vget s.guarantee p.num

/-- L[p] (R23). -/
def State.lim (s : State) (p : Party) : Nat := vget s.limit p.num

/-- The express run counter of a destination (R70). -/
def State.run (s : State) (d : Party) : Nat := vget s.runCount d.num

/-- The express run counter of a destination replaced. -/
def State.setRun (s : State) (d : Party) (n : Nat) : State := { s with runCount := vset s.runCount d.num n }

/-- The free list replaced. -/
def State.setFree (s : State) (f : List CellId) : State := { s with free := f }

/-- The bytes of the pool replaced. -/
def State.setMem (s : State) (m : Memory) : State := { s with mem := m }

/-- The undeliverable queue replaced. -/
def State.setUq (s : State) (u : UndeliverableQueue) : State := { s with uq := u }

/-- The manager slot and mask replaced (R127, R130). -/
def State.setManager (s : State) (o : Option PortId) (mask : Byte) : State :=
  { s with manager := o, mgrMask := mask }

end Sys2Proof.Machine
end

