-- ==== Sys2Proof/Machine/Steps.lean ====
section
/-! DEFINITION. Which step a command is: the step that an in byte makes (5.3), and whether a command that waits is one that R28
lets come between an event at the accounts and the reserve ones it leads to. -/

namespace Sys2Proof.Machine

/-! ### Which step an in byte is (5.3, R83, R84) -/

/-- The steps an in byte can be: the rows of the table for bytes, `plain` for IN_BYTE_COMPLETION's own, and `ignored`
for a port with no transaction (R78). -/
inductive ByteStep where
  | ignored
  | plain
  | undefinedCode
  | nop
  | post
  | payload
  | fetch
  | fetchUq
  | release
  | events
  | mask
  | managerMask
  | query
  | claim
  | resign
  | portReset
  | readItem
  | writeItem
  | routeWrite
  | portaddrWrite
  | guaranteeWrite
  | limitWrite
  | depthWrite
  | runlimitWrite
  | posttimeoutWrite
  | lowmarkWrite
  | linkEnable
  | linkDisable
  | fence
  | unfence
  | purge
  | drain
  | restart
  deriving DecidableEq, Repr

/-- In byte 0 with code `b`: a request taken there is its own step; a request taken later only starts (5.3). -/
def codeStep (b : Byte) : ByteStep :=
  match decodeRequest b with
  | none => .undefinedCode
  | some .nop => .nop
  | some .release => .release
  | some .events => .events
  | some .query => .query
  | some .claim => .claim
  | some .resign => .resign
  | some .portReset => .portReset
  | some .restart => .restart
  | some .post => .plain
  | some .fetch => .plain
  | some .mask => .plain
  | some .readItem => .plain
  | some .writeItem => .plain
  | some .fence => .plain
  | some .unfence => .plain
  | some .purge => .plain
  | some .drain => .plain

/-- A WRITE ITEM as received: item id, index and the four value bytes (8.2.2). -/
structure ItemWrite where
  id : Byte
  index : Byte
  v0 : Byte
  v1 : Byte
  v2 : Byte
  v3 : Byte
  deriving DecidableEq, Repr

/-- The WRITE ITEM whose in byte 6 is `b`, from the in bytes 1 to 5 kept. -/
def Port.itemWrite (p : Port) (b : Byte) : ItemWrite :=
  { id := p.inBytes.getD 0 0, index := p.inBytes.getD 1 0, v0 := p.inBytes.getD 2 0, v1 := p.inBytes.getD 3 0,
    v2 := p.inBytes.getD 4 0, v3 := b }

/-- The link an index names, if one (R134). -/
def linkOfByte (b : Byte) : Option LinkId :=
  if h : b.toNat < 2 then some ⟨b.toNat, h⟩ else none

/-- The port a byte names, if one. -/
def portOfByte (b : Byte) : Option PortId :=
  if h : b.toNat < 4 then some ⟨b.toNat, h⟩ else none

/-- The source or destination a byte names, if one. -/
def partyOfByte (b : Byte) : Option Party :=
  if h : b.toNat < 6 then some (Party.ofNum ⟨b.toNat, h⟩) else none

/-- The queue class a byte names, if one. -/
def classOfByte (b : Byte) : Option QueueId :=
  if h : b.toNat < 12 then some (QueueId.ofNum ⟨b.toNat, h⟩) else none

/-- The route entry a byte names, if one. -/
def routeOfByte (b : Byte) : Option (Fin 32) :=
  if h : b.toNat < 32 then some ⟨b.toNat, h⟩ else none

/-- The enable field of a LINKCTRL value: bits 7 to 4 of v0 (11.7). -/
def enableField (v0 : Byte) : Nat := v0.toNat / 16

/-- The auto-restart field of a LINKCTRL value: bits 3 to 0 of v0 (11.7). -/
def autoRestartField (v0 : Byte) : Nat := v0.toNat % 16

/-- The step of a LINKCTRL write: LINK_ENABLE or LINK_DISABLE where its enable field differs from the link's (R160). -/
def State.linkCtrlStep (s : State) (w : ItemWrite) : ByteStep :=
  match linkOfByte w.index with
  | none => .writeItem
  | some x =>
    if enableField w.v0 = 1 ∧ (s.link x).ctrl.enable = false then .linkEnable
    else if enableField w.v0 = 0 ∧ (s.link x).ctrl.enable = true then .linkDisable
    else .writeItem

/-- The step of in byte 6 of a WRITE ITEM, by its item (R134). -/
def State.writeStep (s : State) (w : ItemWrite) : ByteStep :=
  if w.id = 0x01 then .routeWrite
  else if w.id = 0x02 then .portaddrWrite
  else if w.id = 0x03 then .guaranteeWrite
  else if w.id = 0x04 then .limitWrite
  else if w.id = 0x05 then .depthWrite
  else if w.id = 0x06 then .runlimitWrite
  else if w.id = 0x07 then s.linkCtrlStep w
  else if w.id = 0x08 then .posttimeoutWrite
  else if w.id = 0x09 then .lowmarkWrite
  else .writeItem

/-- The step of in byte `p.inCount` of a running request (5.3). -/
def State.requestStep (s : State) (p : Port) (b : Byte) : Request → ByteStep
  | .post =>
    match p.phase with
    | .header => if p.inCount = 5 then .post else .plain
    | .filling => .payload
    | .refused => .plain
    | .noPost => .plain
  | .fetch => if p.inCount = 1 then (if uqFlag b then .fetchUq else .fetch) else .plain
  | .mask => if p.inCount = 1 then .mask else if p.inCount = 2 then .managerMask else .plain
  | .readItem => if p.inCount = 2 then .readItem else .plain
  | .writeItem => if p.inCount = 6 then s.writeStep (p.itemWrite b) else .plain
  | .fence => if p.inCount = 1 then .fence else .plain
  | .unfence => if p.inCount = 1 then .unfence else .plain
  | .purge => if p.inCount = 1 then .purge else .plain
  | .drain => if p.inCount = 1 then .drain else .plain
  | .nop => .plain
  | .release => .plain
  | .events => .plain
  | .query => .plain
  | .claim => .plain
  | .resign => .plain
  | .portReset => .plain
  | .restart => .plain

/-- The step that the completion of an in byte of value `b` on port `k` is (R78, R83, R84). -/
def State.byteStep (s : State) (k : PortId) (b : Byte) : ByteStep :=
  match (s.port k).tx with
  | .idle => .ignored
  | .opened => codeStep b
  | .running r => s.requestStep (s.port k) b r
  | .ended => .plain

/-! ### What a closing action and a received symbol find -/

/-- Whether out byte `i` was shifted out in full: in byte `i` completed and no 0xFF was put in its place (R81). -/
def Port.fullOut (p : Port) (i : Nat) : Bool := decide (i < p.inCount) && !p.spoilt.contains i

/-- Whether every payload out byte of a message of `len` bytes, 10 to 9 + len, was shifted out in full (R111). -/
def Port.fullReadout (p : Port) (len : Nat) : Bool := (List.range len).all fun j => p.fullOut (10 + j)

/-- The record a readout reads: the readout record while the port's loan still names it (R111, R112). -/
def State.readoutRecord (s : State) (k : PortId) : Option Record :=
  match (s.port k).readout, (s.port k).loan with
  | some n, some l => if l.recId = n then s.record n else none
  | _, _ => none

/-- Header byte 6 is due: a message is open with five header bytes held (R173). -/
def Link.headerEnds (l : Link) : Bool := l.isOpen && l.hdr.length == 5

/-- The header is complete (R174). -/
def Link.headerDone (l : Link) : Bool := l.isOpen && l.hdr.length == 6

/-- The record a link is receiving: the one in its assembly slot (R173). -/
def State.receiving (s : State) (x : LinkId) : Option (RecId × Record) :=
  match s.slot (.link x) with
  | none => none
  | some n => (s.record n).map fun r => (n, r)

/-! ### The commands that R28 lets come between -/

/-- Whether port `k` holds a TAKEN POST, which an early end of its transaction discards (R10). -/
def State.posting (s : State) (k : PortId) : Bool := (s.port k).phase == .filling

/-- Whether the rise of select on port `k` discards a record: that of a POST short of its length (R103), or the loaned record by
auto-release (R111). -/
def State.riseDiscards (s : State) (k : PortId) : Bool :=
  (s.port k).selLow &&
    match (s.port k).tx with
    | .running .post =>
      s.posting k && (s.slot (.host k)).any fun n => (s.record n).any fun r => r.filled != r.length
    | .running .fetch => (s.port k).autoRelease && (s.readoutRecord k).any fun r => (s.port k).fullReadout r.length
    | _ => false

/-- Whether a write of LINKCTRL is for an ACTIVE link, which may reserve toward a new window (R34). -/
def State.writesWindow (s : State) (w : ItemWrite) : Bool :=
  w.id == 0x07 && (linkOfByte w.index).any fun x => (s.link x).state == .active

/-- Whether the step of an in byte of value `b` on port `k` is a claim, a discard or a guarantee or limit write (R28), or a
window write, which another link's claims may follow (R34). -/
def State.byteMeets (s : State) (k : PortId) (b : Byte) : ByteStep → Bool
  | .post | .release | .guaranteeWrite | .limitWrite | .linkDisable | .purge | .drain => true
  | .writeItem => s.writesWindow ((s.port k).itemWrite b)
  | .fence => (portOfByte b).any s.posting
  | .ignored | .plain | .undefinedCode | .nop | .payload | .fetch | .fetchUq | .events | .mask | .managerMask | .query
  | .claim | .resign | .portReset | .readItem | .routeWrite | .portaddrWrite | .depthWrite | .runlimitWrite
  | .posttimeoutWrite | .lowmarkWrite | .linkEnable | .unfence | .restart => false

/-- The same of the command of a step: due at that byte, and one of them. -/
def State.stepMeets (s : State) (k : PortId) (b : Byte) (step : ByteStep) : Bool :=
  s.byteStep k b == step && s.byteMeets k b step

/-- Whether header byte `b`, if it is the sixth, is a FRAME fault of link `x` by the length it ends (R174). -/
def State.headerFaults (s : State) (x : LinkId) (b : Byte) : Bool :=
  let len := twoBytes ((s.link x).hdr.getD 4 0) b
  (s.link x).headerEnds && (len == 0 || decide (Config.maxLength < len))

/-- Whether a payload byte on link `x` takes a cell or is a fault (R32, R175). -/
def State.payloadMeets (s : State) (x : LinkId) : Bool :=
  (s.link x).headerDone &&
    (s.receiving x).any fun m => decide (m.2.length ≤ m.2.filled) || m.2.filled % Config.cellBytes == 0

/-- Whether an EOM received on an ACTIVE link discards its record or is a fault (R176). -/
def State.eomDiscards (s : State) (x : LinkId) : Bool :=
  !(s.link x).headerDone || (s.receiving x).any fun m => m.2.filled != m.2.length || m.2.target == .drop

/-- Whether an ABM received on an ACTIVE link discards its record or is a fault (R177). -/
def State.abmDiscards (s : State) (x : LinkId) : Bool := !(s.link x).isOpen || (s.receiving x).isSome

/-- Whether a symbol received on link `x` meets the accounts: in START it is a fault, and in ACTIVE as `inActive` says. -/
def State.symbolMeets (s : State) (x : LinkId) (inActive : Bool) : Bool :=
  match (s.link x).state with
  | .off => false
  | .start => true
  | .active => inActive
  | .hold => false

/-- Whether one more FILL sent takes link `x` into ACTIVE (R153). -/
def State.lastFill (s : State) (x : LinkId) : Bool :=
  (s.link x).state == .start && decide (7 ≤ (s.link x).fillsSent) && (s.link x).fillSeen

/-- Whether link `x` sends a record whose EOM may complete (R169). -/
def State.eomDue (s : State) (x : LinkId) : Bool :=
  (s.link x).sending.any fun sd => sd.progress == .eom || sd.progress == .eomBegun

/-- Whether a command that waits meets the accounts: it is a claim, a discard or a guarantee or limit write, which R28 lets come
before a link's reserve ones or between two of them; or it lets the other link reserve (entry to ACTIVE, a take one, a window
write, the return of a fault), whose reserve ones R28 lets come there (R20, R31, R33, R153). -/
def State.meetsAccounts (s : State) : Instr → Bool
  | .selectRise k => s.riseDiscards k
  | .postTimeout k => (s.port k).timer.isSome && s.posting k
  | .post k b _ => s.stepMeets k b .post
  | .release k _ => s.stepMeets k 0x21 .release
  | .writeItem k b _ => s.stepMeets k b .writeItem
  | .guaranteeWrite k b _ => s.stepMeets k b .guaranteeWrite
  | .limitWrite k b _ => s.stepMeets k b .limitWrite
  | .linkDisable k b _ => s.stepMeets k b .linkDisable
  | .fence k b _ => s.stepMeets k b .fence
  | .purge k b _ => s.stepMeets k b .purge
  | .drain k b _ => s.stepMeets k b .drain
  | .inByteCompletion k b _ => s.byteMeets k b (s.byteStep k b)
  | .sendFill x => s.lastFill x
  | .eomSent x m => m == .completes && s.eomDue x
  | .receiveFill x => (s.link x).state == .start && (s.link x).fillsSent == 8
  | .receiveGrant x => s.symbolMeets x (decide (Config.maxCredit ≤ (s.link x).credit))
  | .receiveHeaderByte x b => s.symbolMeets x (s.headerFaults x b)
  | .headerStep x b => s.symbolMeets x (s.headerFaults x b)
  | .receivePayloadByte x _ => s.symbolMeets x (s.payloadMeets x)
  | .receiveEom x => s.symbolMeets x (s.eomDiscards x)
  | .receiveAbm x => s.symbolMeets x (s.abmDiscards x)
  | .symbolError x w => decodeSymbol w == none && s.symbolMeets x true
  | .silence x => (s.link x).state == .active && (s.link x).silence
  | .powerOnReset | .selectFall _ | .undefinedRequestCode _ _ _ | .nop _ _ | .postPayloadByte _ _ _ | .fetch _ _ _
  | .fetchUq _ _ _ | .events _ _ | .mask _ _ _ | .managerMaskWrite _ _ _ | .query _ _ | .claim _ _ | .resign _ _
  | .portReset _ _ | .readItem _ _ _ | .routeWrite _ _ _ | .portaddrWrite _ _ _ | .depthWrite _ _ _
  | .runlimitWrite _ _ _ | .posttimeoutWrite _ _ _ | .lowmarkWrite _ _ _ | .linkEnable _ _ _ | .unfence _ _ _
  | .restart _ _ | .sendGrant _ | .sendHeaderByte _ | .sendPayloadByte _ | .sendAbm _ | .settleEnd _ | .holdEnd _ => false

/-- Whether the command that waits next is one that may come between an event at the accounts and the reserve ones it leads to.
Before any other command, and with none waiting, they are all made, so that no reply, sample or symbol finds an event half done
(R28, R95, R135, R153; log 29). -/
def State.comesBetween (s : State) : Bool :=
  match s.pending with
  | [] => false
  | c :: _ => s.meetsAccounts c

end Sys2Proof.Machine
end

