-- ==== Sys2Proof/Machine/Ops.lean ====
section
/-! DEFINITION. The shared operations: the cell pool's bytes, the accounts and the admission test, queues and occupancy, lookup
and the judgement of a POST, watches and reserve ones, discards, commits, choices, and the link's changes of state. The block
has no exception entry; its counterpart, the link fault (R157), is `State.linkFault`. -/

namespace Sys2Proof.Machine

/-! ### Bytes of the cell pool -/

/-- What an address of the pool reads as when it is not listed (log 2). -/
def unlistedByte : Byte := 0x00

/-- The byte at an address. -/
def Memory.read : Memory → Nat → Byte
  | [], _ => unlistedByte
  | (b, v) :: t, a => if a = b then v else Memory.read t a

/-- The memory with the byte at an address replaced, in canonical form. -/
def Memory.write : Memory → Nat → Byte → Memory
  | [], a, v => if v = unlistedByte then [] else [(a, v)]
  | (b, w) :: t, a, v =>
    if a < b then (if v = unlistedByte then (b, w) :: t else (a, v) :: (b, w) :: t)
    else if a = b then (if v = unlistedByte then t else (a, v) :: t)
    else (b, w) :: Memory.write t a v

/-- Whether an address is above a bound, if there is one. -/
def aboveBound : Option Nat → Nat → Bool
  | none, _ => true
  | some l, b => decide (l < b)

/-- Addresses above `lo` (none: any address) and strictly rising, no entry equal to what an unlisted address reads as. -/
def Memory.wfFrom : Option Nat → Memory → Bool
  | _, [] => true
  | lo, (b, v) :: t => aboveBound lo b && v != unlistedByte && Memory.wfFrom (some b) t

/-- The canonical form holds. -/
def Memory.wf (m : Memory) : Bool := Memory.wfFrom none m

/-- The address of payload byte `j` of a record: list position j / 32, offset j mod 32 (R8). -/
def Record.payloadAddr (r : Record) (j : Nat) : Option Nat :=
  (r.cells[j / Config.cellBytes]?).map fun c => c.val * Config.cellBytes + j % Config.cellBytes

/-- Payload byte `j` of a record (R8, R110, R164). -/
def State.payload (s : State) (r : Record) (j : Nat) : Byte :=
  match r.payloadAddr j with
  | some a => s.mem.read a
  | none => unlistedByte

/-- The cells of a message of `n` bytes: ceil(n/32) (R2). -/
def cellsOf (n : Nat) : Nat := (n + 31) / Config.cellBytes

/-- Store the next payload byte of record `n`: the byte goes to position `filled`, and filled rises by one (R8). -/
def State.storePayload (s : State) (n : RecId) (b : Byte) : State :=
  match s.record n with
  | none => s
  | some r =>
    match r.payloadAddr r.filled with
    | none => s
    | some a => (s.setMem (s.mem.write a b)).setRecord n (some { r with filled := r.filled + 1 })

/-! ### Events -/

/-- Raise a host event kind on port `k` (R118). -/
def State.raiseHost (s : State) (k : PortId) (e : HostEvent) : State := s.setPort k ((s.port k).raise e)

/-! ### Accounts (chapter 2) -/

/-- The sum of a figure over the six sources. -/
def sumParties (f : Fin 6 → Nat) : Nat := f 0 + f 1 + f 2 + f 3 + f 4 + f 5

/-- The sum of the six guarantees. -/
def State.sumGuarantee (s : State) : Nat := sumParties (vget s.guarantee)

/-- Shared capacity S (R25). -/
def State.sharedCapacity (s : State) : Nat := Config.cellCount - s.sumGuarantee

/-- Shared usage SU (R25). -/
def State.sharedUsage (s : State) : Nat := sumParties fun i => vget s.usage i - vget s.guarantee i

/-- The rise a claim of `n` cells would cause in a source's holding above its guarantee (R26). -/
def State.claimRise (s : State) (p : Party) (n : Nat) : Nat :=
  (s.used p + n - s.guar p) - (s.used p - s.guar p)

/-- The admission test: whether a claim of `n` cells for source `p` is granted (R26). The shared part is written
without subtraction: SU plus the rise plus the guarantees fit in the pool. -/
def State.grants (s : State) (p : Party) (n : Nat) : Bool :=
  decide (s.used p + n ≤ s.lim p) && decide (s.sharedUsage + s.claimRise p n + s.sumGuarantee ≤ Config.cellCount)

/-- The headroom of a source (R27). -/
def State.headroom (s : State) (p : Party) : Nat :=
  min (s.lim p - s.used p) ((s.guar p - s.used p) + (s.sharedCapacity - s.sharedUsage))

/-- CELLS LOW after an allocation that found `before` cells free (R4). -/
def State.lowMarkTest (s : State) (before : Nat) : State :=
  if s.lowMark ≠ 0 ∧ s.lowMark ≤ before ∧ s.free.length < s.lowMark then s.raiseMgr .cellsLow else s

/-! ### Queues and occupancy (chapter 4, 3.5) -/

/-- Occupancy: committed records plus reserved places (R61). -/
def QueueClass.occupancy (c : QueueClass) : Nat := c.recs.length + c.reserved

/-- The same for the UQ (R53). -/
def UndeliverableQueue.occupancy (u : UndeliverableQueue) : Nat := u.recs.length + u.reserved

/-- Reserve one place for a target; DROP holds none (R61, R51). -/
def State.reservePlace (s : State) : Target → State
  | .queue q => s.setClass q { s.qclass q with reserved := (s.qclass q).reserved + 1 }
  | .uq => s.setUq { s.uq with reserved := s.uq.reserved + 1 }
  | .drop => s

/-- Release one reserved place of a target (R68). -/
def State.releasePlace (s : State) : Target → State
  | .queue q => s.setClass q { s.qclass q with reserved := (s.qclass q).reserved - 1 }
  | .uq => s.setUq { s.uq with reserved := s.uq.reserved - 1 }
  | .drop => s

/-- Take a committed record out of its queue (R19, R72). -/
def State.unqueue (s : State) (n : RecId) : Target → State
  | .queue q => s.setClass q { s.qclass q with recs := (s.qclass q).recs.erase n }
  | .uq => s.setUq { s.uq with recs := s.uq.recs.erase n }
  | .drop => s

/-- Append a record at the tail of a target's queue (R67). -/
def State.enqueue (s : State) (n : RecId) : Target → State
  | .queue q => s.setClass q { s.qclass q with recs := (s.qclass q).recs ++ [n] }
  | .uq => s.setUq { s.uq with recs := s.uq.recs ++ [n] }
  | .drop => s

/-! ### Lookup (3.2) -/

/-- The outcome of a lookup. -/
inductive Lookup where
  | output (d : Party)
  | noRoute
  | hops
  deriving DecidableEq, Repr

/-- The valid entry that holds an address (R45). -/
def State.matchRoute (s : State) (a : Byte) : Option RouteEntry :=
  s.routes.toList.find? fun e => e.valid && e.address == a

/-- The output chosen from a matched entry (R46). -/
def State.chooseOutput (s : State) (e : RouteEntry) : Party :=
  match e.primary with
  | .host k => .host k
  | .link x => if (s.link x).state = .active then .link x else e.alternate.getD (.link x)

/-- A lookup: match, output, hop rule (R45, R46, R47). -/
def State.lookup (s : State) (a : Byte) (hops : BitVec 4) : Lookup :=
  match s.matchRoute a with
  | none => .noRoute
  | some e =>
    match s.chooseOutput e with
    | .host k => .output (.host k)
    | .link x => if hops = 0 then .hops else .output (.link x)

/-! ### The judgement of a POST (6.1) -/

/-- The header of a POST: destination address, control byte, tag and declared length (R99). -/
structure PostHeader where
  dst : Byte
  control : Byte
  tag : Byte
  length : Nat
  deriving DecidableEq, Repr

/-- The header whose in byte 5 is `b`, from the in bytes 1 to 4 kept. -/
def Port.postHeader (p : Port) (b : Byte) : PostHeader :=
  { dst := p.inBytes.getD 0 0, control := p.inBytes.getD 1 0, tag := p.inBytes.getD 2 0,
    length := twoBytes (p.inBytes.getD 3 0) b }

/-- The judgement of a POST: refused with no effect, FULL against a class, NO_CELLS for a claim, or TAKEN with its class
and its cells (R100). -/
inductive PostVerdict where
  | refused (st : Status)
  | full (q : QueueId)
  | noCells (n : Nat)
  | taken (q : QueueId) (n : Nat)
  deriving DecidableEq, Repr

/-- The six checks of a POST in their order (R100). -/
def State.judgePost (s : State) (k : PortId) (h : PostHeader) : PostVerdict :=
  if (s.port k).fenced then .refused .fenced
  else if h.length = 0 ∨ Config.maxLength < h.length then .refused .length
  else
    match s.lookup h.dst (controlHops h.control) with
    | .noRoute => .refused .noRoute
    | .hops => .refused .hops
    | .output d =>
      let q : QueueId := { dest := d, cls := controlClass h.control }
      if (s.qclass q).occupancy < (s.qclass q).depth then
        if s.grants (.host k) (cellsOf h.length) then .taken q (cellsOf h.length) else .noCells (cellsOf h.length)
      else .full q

/-- A POST is at its in byte 5, where it is judged (R99, R100). -/
def Port.postDue (p : Port) : Bool := p.tx == .running .post && p.phase == .header && p.inCount == 5

/-- The POST whose in byte 5 is the command waiting next: its port and that byte. It comes together with the command that
is being taken (R66, log 30). -/
def State.waitingPost (s : State) : Option (PortId × Byte) :=
  match s.pending with
  | .post k b _ :: _ => if (s.port k).postDue then some (k, b) else none
  | .inByteCompletion k b _ :: _ => if (s.port k).postDue then some (k, b) else none
  | _ => none

/-- The class that is full for the POST waiting next, if that POST taken now would be refused FULL (R66). -/
def State.waitingFull (s : State) : Option QueueId :=
  match s.waitingPost with
  | none => none
  | some (k, b) =>
    match s.judgePost k ((s.port k).postHeader b) with
    | .full q => some q
    | _ => none

/-! ### Refusal watches and reserve ones (R30, R31, R38, R39) -/

/-- A port's watch is satisfied: ROOM is raised and the watch becomes absent (R39). -/
def Port.satisfy (p : Port) : Port := { p.raise .room with watch := .absent }

/-- Judge the DEPTH watches of the classes whose occupancy fell or whose limit was written (R38, R39). -/
def State.judgeDepth (s : State) (falls : List QueueId) : State :=
  { s with
    ports := s.ports.map fun p =>
      match p.watch with
      | .depth q =>
        if q ∈ falls ∧ (s.qclass q).occupancy < (s.qclass q).depth then p.satisfy else p
      | _ => p }

/-- Port `k`'s watch judged as a CELLS watch (R39). -/
def State.judgeCellsOf (s : State) (k : PortId) : State :=
  match (s.port k).watch with
  | .cells n => if 1 ≤ n ∧ s.grants (.host k) n then s.setPort k (s.port k).satisfy else s
  | _ => s

/-- Judge the CELLS watches of all four ports against the accounts as they stand (R38, R39). -/
def State.judgeCells (s : State) : State :=
  (((s.judgeCellsOf 0).judgeCellsOf 1).judgeCellsOf 2).judgeCellsOf 3

/-- Whether some port holds a CELLS watch. -/
def State.anyCellsWatch (s : State) : Bool :=
  s.ports.toList.any fun p => match p.watch with | .cells _ => true | _ => false

/-- The three conditions under which a link reserves one cell (R30). -/
def State.canReserve (s : State) (x : LinkId) : Bool :=
  (s.link x).state == .active && decide ((s.link x).reserved.length < (s.link x).ctrl.window) && s.grants (.link x) 1

/-- Reserve one: the front free cell moves to the tail of the reserved list, u[x] rises by 1, one GRANT becomes
pending, and the allocation is tested against the low mark (R3, R4, R30). -/
def State.reserveOne (s : State) (x : LinkId) : State :=
  match s.free with
  | [] => s
  | c :: rest =>
    (((s.setFree rest).setLink x
          { s.link x with
            reserved := (s.link x).reserved ++ [c], pendingGrants := (s.link x).pendingGrants + 1 }).setUsed
        (.link x) (s.used (.link x) + 1)).lowMarkTest s.free.length

/-- A party that may act on the accounts next: the CELLS watches, a link that would reserve one, or the claim, discard or write
of the command that waits next (R28, R31). -/
inductive Contender where
  | watches
  | link (x : LinkId)
  | command
  deriving DecidableEq, Repr

/-- The contenders that stand: each of the links `ls` that can reserve, the watches while they are still to be judged, and,
once they are judged and while a link can reserve, the command that waits next if R28 lets it come between (logs 7 and
29). -/
def State.contenders (s : State) (ls : List LinkId) (watches : Bool) : List Contender :=
  (if watches && s.anyCellsWatch then [Contender.watches]
    else if s.comesBetween && ls.any s.canReserve then [Contender.command]
    else []) ++ (ls.filter s.canReserve).map Contender.link

/-- The contender taken next. Where several stand, the order is open (R28, R31): the free value picks one, and the
count of contentions moves on (log 7). -/
def State.nextContender (s : State) (ls : List LinkId) (watches : Bool) : Option (Contender × State) :=
  match s.contenders ls watches with
  | [] => none
  | [c] => some (c, s)
  | c :: cs =>
    some ((c :: cs).getD (Config.freeTie s.ties % (c :: cs).length) c, { s with ties := s.ties + 1 })

/-- The reserve ones of the links `ls` are left to be made after the claim, discard or write that comes between
(R28, log 29). -/
def State.owe (s : State) (ls : List LinkId) : State := { s with owed := ls }

/-- The contenders act one after another, each against the accounts as it finds them, until none stands or the command that
waits next comes between: the links' reserve ones are then left, to be made after it (R28, R30, R31, R38; logs 7 and 29). The
first argument bounds the number of actions. -/
def State.contend : Nat → List LinkId → Bool → State → State
  | 0, _, _, s => s
  | fuel + 1, ls, watches, s =>
    match s.nextContender ls watches with
    | none => s
    | some (.watches, s') => State.contend fuel ls false s'.judgeCells
    | some (.link x, s') => State.contend fuel ls watches (s'.reserveOne x)
    | some (.command, s') => s'.owe ls

/-- The places a link's window leaves above its reservation. -/
def State.windowRoom (s : State) (x : LinkId) : Nat := (s.link x).ctrl.window - (s.link x).reserved.length

/-- Both links. -/
def bothLinks : List LinkId := [0, 1]

/-- The links that try to reserve when an event gives the links `ls` a reason to: those, and the links whose reserve ones were
left at an earlier event (R28, R31). -/
def State.trying (s : State) (ls : List LinkId) : List LinkId := bothLinks.filter fun x => s.owed.contains x || ls.contains x

/-- An event at the accounts: the links `ls` try to reserve, beside those whose reserve ones were left, and, if `watches`,
the CELLS watches are judged (R31, R38). R28 lets the claims, discards and writes of other sources come before any of the
reserve ones or between two of them: the command that waits next does so where it is one of these (`State.comesBetween`, log
29), and every other command finds the event done (R153 of the entry to ACTIVE, log 29 of the others). Each reserve one uses
a place of a window, so the bound is reached only when nothing stands. -/
def State.accountsEvent (s : State) (ls : List LinkId) (watches : Bool) : State :=
  State.contend (((s.trying ls).map s.windowRoom).sum + 1) (s.trying ls) watches { s with owed := [] }

/-- The reserve ones left at earlier events go on, up to the next command that comes between (R28, log 29). Every command
ends with this, but for POWER_ON_RESET, after which none are left. -/
def State.resume (s : State) : State := s.accountsEvent [] false

/-- The reserve ones left of link `x` are all made, with nothing between. R28 lets the claims of other sources, discards and
guarantee and limit writes come between them, but not what befalls the link itself: a fault returns the cells that the entry
to ACTIVE reserved (R153). That a fault after a later event, a disable (R160), a payload byte (R32) and a new window (R34)
find them made too is the model's reading (log 29). -/
def State.finish (s : State) (x : LinkId) : State :=
  { State.resume { s with pending := [], owed := s.owed.filter (· == x) } with
    pending := s.pending, owed := s.owed.filter (· != x) }

/-! ### Discards (R19, R20) -/

/-- What discards return, as far as others must be told: whether cells came back, and the classes whose occupancy
fell. -/
structure Returned where
  cells : Bool
  falls : List QueueId
  deriving DecidableEq, Repr

/-- Two returns of one event. -/
def Returned.and (a b : Returned) : Returned := { cells := a.cells || b.cells, falls := a.falls ++ b.falls }

/-- The class of a target, if it is one. -/
def Target.classes : Target → List QueueId
  | .queue q => [q]
  | .uq => []
  | .drop => []

/-- What the discard of record `n` will return. -/
def State.returnedBy (s : State) (n : RecId) : Returned :=
  match s.record n with
  | none => { cells := false, falls := [] }
  | some r => { cells := !r.cells.isEmpty, falls := r.target.classes }

/-- A port that held record `n` on loan holds it no longer (R19). -/
def Port.dropLoanOf (n : RecId) (p : Port) : Port :=
  if p.loan.map (·.recId) = some n then { p with loan := none, readout := none } else p

/-- A transmitter that named record `n` names it no longer (R19). -/
def Link.dropSendingOf (n : RecId) (l : Link) : Link :=
  if l.sending.map (·.recId) = some n then { l with sending := none } else l

/-- Step 1 of the discard path: the record out of its place (R19). -/
def State.outOfPlace (s : State) (n : RecId) (r : Record) : State :=
  match r.state with
  | .assembling => (s.setSlot r.origin none).releasePlace r.target
  | _ => s.unqueue n r.target

/-- Step 2 of the discard path: references cleared (R19). -/
def State.dropReferences (s : State) (n : RecId) : State :=
  { s with ports := s.ports.map (Port.dropLoanOf n), links := s.links.map (Link.dropSendingOf n) }

/-- Steps 3 to 5 of the discard path: cells and usage returned, the record freed (R19). -/
def State.returnCells (s : State) (n : RecId) (r : Record) : State :=
  ((s.setFree (s.free ++ r.cells)).setUsed r.origin (s.used r.origin - r.cells.length)).setRecord n none

/-- Steps 1 to 5 of the discard path for one record (R19). -/
def State.discardOne (s : State) (n : RecId) : State :=
  match s.record n with
  | none => s
  | some r => ((s.outOfPlace n r).dropReferences n).returnCells n r

/-- Steps 1 to 5 for several records, in order (R20). -/
def State.discardMany (s : State) (ns : List RecId) : State := ns.foldl State.discardOne s

/-- What the discard of several records will return. -/
def State.returnedByMany (s : State) (ns : List RecId) : Returned :=
  ns.foldr (fun n acc => (s.returnedBy n).and acc) { cells := false, falls := [] }

/-- A fall of the class that was full for the POST waiting next, in the state `before` the event: the claim of that POST may
come before the fall (R66, log 30). -/
def State.noteFalls (s before : State) (falls : List QueueId) : State :=
  { s with
    ahead :=
      match before.waitingFull with
      | none => s.ahead
      | some q => if q ∈ falls then some q else s.ahead }

/-- The effects of discards passed on, against the state they leave: the DEPTH watches of the classes that fell, and, if
cells came back, the CELLS watches and the reservations of both links (R19, R20). `before` is the state that the event
found. -/
def State.passOn (s before : State) (r : Returned) : State :=
  let s := (s.judgeDepth r.falls).noteFalls before r.falls
  if r.cells then s.accountsEvent bothLinks true else s

/-- A whole discard of one record (R19). -/
def State.discard (s : State) (n : RecId) : State := (s.discardOne n).passOn s (s.returnedBy n)

/-! ### Creating, committing and choosing -/

/-- The lowest-numbered free record (R5). -/
def State.freeRecord (s : State) : Option RecId := (List.finRange 128).find? fun n => (s.record n).isNone

/-- Choice by service order at a destination: the record, its class, and the run counter after it (R69). -/
def State.choice (s : State) (d : Party) : Option (RecId × MsgClass × Nat) :=
  match (s.qclass ⟨d, .express⟩).recs, (s.qclass ⟨d, .bulk⟩).recs with
  | e :: _, [] => some (e, .express, s.run d)
  | e :: _, b :: _ =>
    if s.run d < vget s.runLimit d.num then some (e, .express, s.run d + 1) else some (b, .bulk, 0)
  | [], b :: _ => some (b, .bulk, 0)
  | [], [] => none

/-- The state of record `n` replaced. -/
def State.setRecState (s : State) (n : RecId) (st : RecState) : State :=
  match s.record n with
  | none => s
  | some r => s.setRecord n (some { r with state := st })

/-- The transmitter's choice: only when the link is ACTIVE and settled, names no record and owes no ABM (R168). -/
def State.transmitterChoose (s : State) (x : LinkId) : State :=
  let l := s.link x
  if l.state = .active ∧ l.settle = 0 ∧ l.sending = none ∧ l.abmDue = false then
    match s.choice (.link x) with
    | none => s
    | some (n, _, c) =>
      ((s.setRun (.link x) c).setRecState n .sending).setLink x
        { l with sending := some { recId := n, progress := .header 1 } }
  else s

/-- The event of a commit, by target; a commit to a link class lets that link's transmitter choose (R12, R103,
R168). -/
def State.commitEvent (s : State) : Target → State
  | .queue ⟨.host k, _⟩ => s.raiseHost k .arrived
  | .queue ⟨.link x, _⟩ => s.transmitterChoose x
  | .uq => s.raiseMgr .undeliverable
  | .drop => s

/-- Commit of an assembling record: out of its slot, QUEUED at the tail of its target, its reservation turned into the
committed entry (R12, R67). -/
def State.commit (s : State) (n : RecId) : State :=
  match s.record n with
  | none => s
  | some r =>
    ((((s.setSlot r.origin none).setRecord n (some { r with state := .queued })).releasePlace r.target).enqueue n
          r.target).commitEvent r.target

/-! ### Loans and transactions -/

/-- The id of the queue class that holds a loan of port `k`: 2k or 2k + 1, or 12 (R106). -/
def Loan.queueNum (k : PortId) (l : Loan) : Nat :=
  match l.queue with
  | .inbox c => 2 * k.val + c.num.val
  | .uq => 12

/-- A loan cleared without removal: its record returns to QUEUED at the head of its queue (R13). -/
def State.clearLoan (s : State) (k : PortId) : State :=
  match (s.port k).loan with
  | none => s
  | some l => (s.setRecState l.recId .queued).setPort k { s.port k with loan := none, readout := none }

/-- A transaction ended early (R86): the port goes to ENDED, its timer stops (R88), its snapshot is cancelled (R125),
and what the request held of the transaction is left behind. The out byte already formed stays. -/
def Port.endTx (p : Port) : Port :=
  { p with
    tx := .ended, timer := none, snapshot := none, readout := none, autoRelease := false, phase := .noPost,
    replyRest := [] }

/-- A TAKEN POST ended without commit: its record is discarded and POST ABORTED is raised (R10). -/
def State.abortPost (s : State) (k : PortId) : State :=
  match s.slot (.host k) with
  | none => s
  | some n => (s.discard n).raiseHost k .postAborted

/-- The post timer started or restarted with the setting as it stands; a setting of 0 starts none (R88). -/
def State.startTimer (s : State) (k : PortId) : State :=
  s.setPort k { s.port k with timer := if s.postTimeout = 0 then none else some s.postTimeout }

/-! ### Links (chapters 9 and 10) -/

/-- The inbound message closed: header bytes dropped, its record, if any, discarded (R157, R160, R178). -/
def State.closeInbound (s : State) (x : LinkId) : State :=
  let s := match s.slot (.link x) with
    | none => s
    | some n => s.discardOne n
  s.setLink x { s.link x with isOpen := false, hdr := [] }

/-- What closing the inbound message will return. -/
def State.inboundReturned (s : State) (x : LinkId) : Returned :=
  match s.slot (.link x) with
  | none => { cells := false, falls := [] }
  | some n => s.returnedBy n

/-- Return all: the reserved list to the tail of the free list, oldest first; u[x] falls by its length; pending GRANTs
are withdrawn (R3, R33). -/
def State.returnAll (s : State) (x : LinkId) : State :=
  ((s.setFree (s.free ++ (s.link x).reserved)).setUsed (.link x)
      (s.used (.link x) - (s.link x).reserved.length)).setLink x
    { s.link x with reserved := [], pendingGrants := 0 }

/-- What a return all will return. -/
def State.reservedReturned (s : State) (x : LinkId) : Returned :=
  { cells := !(s.link x).reserved.isEmpty, falls := [] }

/-- The fate of the sending record at a fault (R16): back at the head with resends raised, or to the UQ with reason
RESENDS, or discarded with UNDELIVERABLE DROPPED; with what it returned. -/
def State.faultSending (s : State) (x : LinkId) : State × Returned :=
  match (s.link x).sending with
  | none => (s, { cells := false, falls := [] })
  | some sd =>
    let s0 := s.setLink x { s.link x with sending := none }
    match s.record sd.recId with
    | none => (s0, { cells := false, falls := [] })
    | some r =>
      if r.resends < (s.link x).ctrl.resendLimit then
        (s0.setRecord sd.recId (some { r with resends := r.resends + 1, state := .queued }),
          { cells := false, falls := [] })
      else if s.uq.occupancy < Config.uqCapacity then
        ((((s0.unqueue sd.recId r.target).setRecord sd.recId
              (some { r with target := .uq, reason := some .resends, state := .queued })).enqueue sd.recId
            .uq).raiseMgr .undeliverable, { cells := false, falls := r.target.classes })
      else ((s0.discardOne sd.recId).raiseMgr .undeliverableDropped, s.returnedBy sd.recId)

/-- Entry to HOLD by a fault: steps 4 and 6 of R157. -/
def Link.toHold (l : Link) (kind : LinkFault) : Link :=
  { l with
    lastFault := kind, credit := 0, settle := 0, silence := false, state := .hold, holdTimer := true,
    holdExit := .autoRestart, abmDue := false }

/-- LINK x DOWN, if the link was in ACTIVE (R157, R160). -/
def State.raiseDown (s : State) (x : LinkId) (was : LinkState) : State :=
  if was = .active then s.raiseMgr (.linkDown x) else s

/-- The seven steps of R157 as one event, then the returns passed on against the state they leave (R20). -/
def State.leaveByFault (s : State) (x : LinkId) (kind : LinkFault) : State :=
  let back := (s.inboundReturned x).and (s.reservedReturned x)
  let s1 := (s.closeInbound x).returnAll x
  let f := s1.faultSending x
  let s2 := (f.1.setLink x ((f.1.link x).toHold kind)).raiseDown x (s.link x).state
  s2.passOn s (back.and f.2)

/-- A fault of a link in START or ACTIVE (R157): it comes after the reserve ones that the link's entry to ACTIVE led to, and
returns the cells they took (R153), and likewise after those of a later event (log 29). A link in OFF or HOLD does not fault.
-/
def State.linkFault (s : State) (x : LinkId) (kind : LinkFault) : State :=
  if (s.link x).state = .start ∨ (s.link x).state = .active then (s.finish x).leaveByFault x kind else s

/-- Entry to START: the configured rate becomes the operating rate, no FILL sent and none seen (R152). -/
def Link.toStart (l : Link) : Link :=
  { l with state := .start, opRate := l.ctrl.rate, fillsSent := 0, fillSeen := false, holdTimer := false }

/-- Entry to ACTIVE, in one event: settle count 8, silence timer started, LINK x UP, and the link reserves (R153). -/
def State.enterActive (s : State) (x : LinkId) : State :=
  ((s.setLink x { s.link x with state := .active, settle := 8, silence := true }).raiseMgr (.linkUp x)).accountsEvent
    [x] false

/-- The sending record at a disable: unless its EOM has begun it returns to the head of its class with resends
unchanged, and an ABM becomes due (R17, R160, R171). -/
def State.disableSending (s : State) (x : LinkId) : State :=
  match (s.link x).sending with
  | none => s
  | some sd =>
    if sd.progress = .eomBegun then s
    else (s.setRecState sd.recId .queued).setLink x { s.link x with sending := none, abmDue := true }

/-- A disable of a link, by the state it is in (R160). -/
def State.disableLink (s : State) (x : LinkId) : State :=
  match (s.link x).state with
  | .off => s
  | .start => s.setLink x { s.link x with state := .off, fillsSent := 0, fillSeen := false }
  | .hold => s.setLink x { s.link x with state := .off, holdTimer := false }
  | .active =>
    let back := (s.inboundReturned x).and (s.reservedReturned x)
    let s1 := ((s.disableSending x).closeInbound x).returnAll x
    let s2 := s1.setLink x { s1.link x with state := .off, credit := 0, settle := 0, silence := false }
    (s2.raiseDown x .active).passOn s back

end Sys2Proof.Machine
end

