-- ==== Sys2Proof/Machine/Operands.lean ====
section
/-! DEFINITION. The operand forms: the out bytes of the port (summary, QUERY, item values, FETCH
readout), the item space and the judgement of item writes and administrative requests, and the frame header. -/

namespace Sys2Proof.Machine

/-! ### Out bytes -/

/-- The port at the completion of an in byte: the byte shifted out during it was the formed one, or 0xFF if the in byte
came too early; the next out byte is formed (R79, R80, R81). -/
def Port.shift (p : Port) (early : Bool) (next : Byte) : Port :=
  { p with
    outShifted := if early then some 0xFF else p.outFormed
    spoilt := if early then p.inCount :: p.spoilt else p.spoilt
    inCount := p.inCount + 1
    outFormed := some next }

/-- The same in the state. -/
def State.shift (s : State) (k : PortId) (early : Bool) (next : Byte) : State :=
  s.setPort k ((s.port k).shift early next)

/-- A request starts or is taken: the transaction runs it (R84). -/
def State.setTx (s : State) (k : PortId) (t : TxState) : State := s.setPort k { s.port k with tx := t }

/-- The sampled reply bytes that are still to be formed (R95, R123, R135). -/
def State.setReply (s : State) (k : PortId) (rest : List Byte) : State :=
  s.setPort k { s.port k with replyRest := rest }

/-- Bits of a byte from eight flags, bit 7 first. -/
def byteOf (b7 b6 b5 b4 b3 b2 : Bool) : Byte :=
  (if b7 then 0x80 else 0) ||| (if b6 then 0x40 else 0) ||| (if b5 then 0x20 else 0) ||| (if b4 then 0x10 else 0) |||
    (if b3 then 0x08 else 0) ||| (if b2 then 0x04 else 0)

/-- The summary byte of port `k` (R82, 11.3). -/
def State.summary (s : State) (k : PortId) : Byte :=
  byteOf (s.attention k) (!(s.qclass ⟨.host k, .express⟩).recs.isEmpty) (!(s.qclass ⟨.host k, .bulk⟩).recs.isEmpty)
    (s.port k).loan.isSome (s.port k).fenced (s.manager == some k)

/-- The loan queue id of port `k`: 0 to 7, 12, or 0xFF for no loan (R75, R95, R106). -/
def State.loanId (s : State) (k : PortId) : Byte :=
  match (s.port k).loan with
  | none => 0xFF
  | some l => BitVec.ofNat 8 (l.queueNum k)

/-- The manager's port number, or 0xFF while the role is vacant (R95). -/
def State.managerId (s : State) : Byte :=
  match s.manager with
  | none => 0xFF
  | some k => BitVec.ofNat 8 k.val

/-- A count as a byte. -/
def countByte (n : Nat) : Byte := BitVec.ofNat 8 n

/-- The QUERY snapshot of port `k`: out bytes 1 to 12 (R95, 11.6). -/
def State.querySnapshot (s : State) (k : PortId) : List Byte :=
  [hiByte (s.headroom (.host k)), loByte (s.headroom (.host k)), hiByte (s.used (.host k)), loByte (s.used (.host k)),
    countByte (s.qclass ⟨.host k, .express⟩).recs.length, countByte (s.qclass ⟨.host k, .bulk⟩).recs.length,
    s.loanId k, s.managerId, (s.link 0).state.code, (s.link 1).state.code, hiByte s.free.length, loByte s.free.length]

/-- Out byte `i` of a readout of record `r`: 3 to 9 its header, 10 to 9 + length its payload, 0x00 after (R110). -/
def State.readoutByte (s : State) (r : Record) (i : Nat) : Byte :=
  if i = 3 then r.srcAddr
  else if i = 4 then r.dstAddr
  else if i = 5 then controlByte r.cls r.hops
  else if i = 6 then r.tag
  else if i = 7 then hiByte r.length
  else if i = 8 then loByte r.length
  else if i = 9 then reasonCode r.reason
  else if 10 ≤ i ∧ i < 10 + r.length then s.payload r (i - 10)
  else 0x00

/-! ### The item space (8.2) -/

/-- A LINKCTRL item as value bytes (11.7). -/
def LinkCtrl.bytes (c : LinkCtrl) : List Byte :=
  [(if c.enable then 0x10 else 0) ||| (if c.autoRestart then 0x01 else 0), countByte c.rate, countByte c.window,
    countByte c.resendLimit]

/-- A route entry as value bytes (11.7). -/
def RouteEntry.bytes (e : RouteEntry) : List Byte :=
  [if e.valid then 0x01 else 0x00, e.address, countByte e.primary.num.val,
    match e.alternate with
    | none => 0xFF
    | some d => countByte d.num.val]

/-- A 16-bit figure in v2 and v3 (11.7). -/
def wordBytes (n : Nat) : List Byte := [0, 0, hiByte n, loByte n]

/-- The committed and reserved counts of the queue of index `b`: a class or the UQ (R140). -/
def State.queueBytes (s : State) (b : Byte) : Option (List Byte) :=
  if b = 12 then some [0, 0, countByte s.uq.recs.length, countByte s.uq.reserved]
  else (classOfByte b).map fun q => [0, 0, countByte (s.qclass q).recs.length, countByte (s.qclass q).reserved]

/-- A sample of every field of the item named by an id and an index, as its four value bytes; none where they name no
item (R134, R135, R140, 11.7). -/
def State.itemValue (s : State) (id index : Byte) : Option (List Byte) :=
  if id = 0x01 then (routeOfByte index).map fun i => (vget s.routes i).bytes
  else if id = 0x02 then (portOfByte index).map fun k => [0, 0, 0, (s.port k).portAddr]
  else if id = 0x03 then (partyOfByte index).map fun p => wordBytes (s.guar p)
  else if id = 0x04 then (partyOfByte index).map fun p => wordBytes (s.lim p)
  else if id = 0x05 then (classOfByte index).map fun q => [0, 0, 0, countByte (s.qclass q).depth]
  else if id = 0x06 then (partyOfByte index).map fun p => [0, 0, 0, countByte (vget s.runLimit p.num)]
  else if id = 0x07 then (linkOfByte index).map fun x => (s.link x).ctrl.bytes
  else if id = 0x08 then (if index = 0 then some [0, 0, 0, countByte s.postTimeout] else none)
  else if id = 0x09 then (if index = 0 then some (wordBytes s.lowMark) else none)
  else if id = 0x10 then (partyOfByte index).map fun p => wordBytes (s.used p)
  else if id = 0x11 then
    (linkOfByte index).map fun x =>
      [(s.link x).state.code, (s.link x).lastFault.code, countByte (s.link x).credit,
        countByte (s.link x).reserved.length]
  else if id = 0x12 then
    (if index = 0 then
      let n := (s.records.toList.filter Option.isNone).length
      some [hiByte s.free.length, loByte s.free.length, hiByte n, loByte n]
    else none)
  else if id = 0x13 then
    (portOfByte index).map fun k =>
      [if (s.port k).fenced then 1 else 0, s.loanId k, (s.port k).watch.code, 0]
  else if id = 0x14 then s.queueBytes index
  else none

/-- The read-only items: ids 0x10 to 0x14 (R136). -/
def readOnlyId (id : Byte) : Bool := decide (0x10 ≤ id.toNat ∧ id.toNat ≤ 0x14)

/-- The checks 1 to 3 of a write, then the item's own checks 4 to 6 (`own`): the first that fails gives the verdict
(R136). -/
def State.judgeWrite {α : Type} (s : State) (k : PortId) (w : ItemWrite) (own : Except Status α) : Except Status α :=
  if (s.port k).fenced then .error .fenced
  else if s.manager ≠ some k then .error .notManager
  else if readOnlyId w.id then .error .readOnly
  else own

/-- The route entry a ROUTE value spells, none where a field is out of range (R44, 11.7). -/
def ItemWrite.routeEntry (w : ItemWrite) : Option RouteEntry :=
  if w.v0.toNat ≤ 1 then
    match partyOfByte w.v2 with
    | none => none
    | some d =>
      if w.v3 = 0xFF then some { valid := w.v0 == 1, address := w.v1, primary := d, alternate := none }
      else (partyOfByte w.v3).map fun a => { valid := w.v0 == 1, address := w.v1, primary := d, alternate := some a }
  else none

/-- Whether another valid entry than `i` holds an address (R44). -/
def State.otherHolds (s : State) (i : Fin 32) (a : Byte) : Bool :=
  (List.finRange 32).any fun j => j != i && (vget s.routes j).valid && (vget s.routes j).address == a

/-- The LINKCTRL item a value spells, none where a field is out of range (R138, 11.7). -/
def ItemWrite.linkCtrl (w : ItemWrite) : Option LinkCtrl :=
  if enableField w.v0 ≤ 1 ∧ autoRestartField w.v0 ≤ 1 ∧ w.v1.toNat ≤ 4 ∧ 1 ≤ w.v2.toNat ∧ w.v2.toNat ≤ 16 ∧
      1 ≤ w.v3.toNat ∧ w.v3.toNat ≤ 7 then
    some
      { enable := enableField w.v0 == 1, autoRestart := autoRestartField w.v0 == 1, rate := w.v1.toNat,
        window := w.v2.toNat, resendLimit := w.v3.toNat }
  else none

/-- The sum of the guarantees with G[p] replaced (R35). -/
def State.sumGuaranteeWith (s : State) (p : Party) (g : Nat) : Nat := sumParties (vget (vset s.guarantee p.num g))

/-- The shared usage with G[p] replaced (R35). -/
def State.sharedUsageWith (s : State) (p : Party) (g : Nat) : Nat :=
  sumParties fun i => vget s.usage i - vget (vset s.guarantee p.num g) i

/-- The sum of the twelve depth limits with q's replaced (R62, R63). -/
def State.sumDepthWith (s : State) (q : QueueId) (d : Nat) : Nat :=
  ((List.finRange 12).map fun i => if i = q.num then d else (vget s.classes i).depth).sum

/-- The checks of an administrative request but SELF: the first that fails gives the verdict; `target` is what its
operand names, if that is in range (R141). -/
def State.judgeAdmin {α : Type} (s : State) (k : PortId) (target : Option α) : Except Status α :=
  if (s.port k).fenced then .error .fenced
  else if s.manager ≠ some k then .error .notManager
  else
    match target with
    | none => .error .range
    | some t => .ok t

/-! ### The frame (10.1) -/

/-- Header byte `i` of the frame of a record, the hop limit less one (R164, R165). -/
def Record.headerByte (r : Record) (i : Nat) : Byte :=
  if i = 1 then r.dstAddr
  else if i = 2 then r.srcAddr
  else if i = 3 then controlByte r.cls (r.hops - 1)
  else if i = 4 then r.tag
  else if i = 5 then hiByte r.length
  else loByte r.length

end Sys2Proof.Machine
end

