-- ==== Sys2Proof/Machine/Admin.lean ====
section
/-! DEFINITION. Power-on reset (chapter 1 and 0.8) and the administrative requests (chapter 8): POWER_ON_RESET, FENCE,
UNFENCE, PURGE, DRAIN and RESTART. -/

namespace Sys2Proof.Machine

/-- POWER_ON_RESET (R21): every block at its power-on state. The select pins keep their level (R83), the cells their
bytes (R1, log 2), and the model's own fields stand (log 20). -/
def execPowerOnReset (s : State) : Host.Outcome State Fault Refusal :=
  .next
    { State.reset with
      mem := s.mem
      ports :=
        #v[{ Port.reset 0xF0 with selLow := (s.port 0).selLow }, { Port.reset 0xF1 with selLow := (s.port 1).selLow },
          { Port.reset 0xF2 with selLow := (s.port 2).selLow }, { Port.reset 0xF3 with selLow := (s.port 3).selLow }]
      ties := s.ties
      pending := s.pending }

/-- Whether a transaction is open to be ended early: OPEN or RUNNING (R86). -/
def TxState.isOpen : TxState → Bool
  | .idle => false
  | .opened => true
  | .running _ => true
  | .ended => false

/-- The open transaction of a port that is being fenced ends; a TAKEN POST's record is discarded with POST ABORTED
(R92). -/
def State.endForFence (s : State) (j : PortId) : State :=
  if (s.port j).tx.isOpen then
    let s1 := if (s.port j).phase = .filling then s.abortPost j else s
    s1.setPort j (s1.port j).endTx
  else s

/-- FENCE of port `j` (R92, R142): with the flag clear, the flag is set, the open transaction ends, the loan is cleared
without removal and FENCE CHANGED is raised; with the flag set, nothing changes. -/
def State.fencePort (s : State) (j : PortId) : State :=
  if (s.port j).fenced then s
  else
    (((s.setPort j { s.port j with fenced := true }).endForFence j).clearLoan j).raiseHost j .fenceChanged

/-- FENCE (R141, R142). -/
def execFence (k : PortId) (b : Byte) (early : Bool) (s : State) : Host.Outcome State Fault Refusal :=
  if s.byteStep k b = .fence then
    match s.judgeAdmin k (portOfByte b) with
    | .error st => .next (s.shift k early st.code).resume
    | .ok j =>
      if j = k then .next (s.shift k early Status.self.code).resume
      else .next ((s.fencePort j).shift k early Status.done.code).resume
  else .next s.resume

/-- UNFENCE of port `j` (R143). -/
def State.unfencePort (s : State) (j : PortId) : State :=
  if (s.port j).fenced then (s.setPort j { s.port j with fenced := false }).raiseHost j .fenceChanged else s

/-- UNFENCE (R141, R143). -/
def execUnfence (k : PortId) (b : Byte) (early : Bool) (s : State) : Host.Outcome State Fault Refusal :=
  if s.byteStep k b = .unfence then
    match s.judgeAdmin k (portOfByte b) with
    | .error st => .next (s.shift k early st.code).resume
    | .ok j => .next ((s.unfencePort j).shift k early Status.done.code).resume
  else .next s.resume

/-- The committed records of a destination in queue order: EXPRESS from head to tail, then BULK (R73). -/
def State.committedOf (s : State) (d : Party) : List RecId :=
  (s.qclass ⟨d, .express⟩).recs ++ (s.qclass ⟨d, .bulk⟩).recs

/-- LOAN LOST on port `j` if it held a loan before the purge (R144). -/
def State.raiseLoanLost (s : State) (j : PortId) (held : Bool) : State :=
  if held then s.raiseHost j .loanLost else s

/-- PURGE of the inbox of host `j` (R73, R144). -/
def State.purgeInbox (s : State) (j : PortId) : State :=
  let ns := s.committedOf (.host j)
  let held := (s.port j).loan.any fun l => l.queue != .uq
  let s1 := ((s.discardMany ns).setRun (.host j) 0).passOn s (s.returnedByMany ns)
  (s1.raiseLoanLost j held).raiseHost j .purged

/-- PURGE of the UQ (R56, R144). -/
def State.purgeUq (s : State) : State :=
  let ns := s.uq.recs
  let s1 := (s.discardMany ns).passOn s (s.returnedByMany ns)
  match s.manager with
  | none => s1
  | some m => s1.raiseLoanLost m ((s.port m).loan.any fun l => l.queue == .uq)

/-- The target of a PURGE: 0 to 3 a host's inbox, 4 the UQ (none inside) (8.3). -/
def purgeTarget (b : Byte) : Option (Option PortId) :=
  if b = 4 then some none else (portOfByte b).map some

/-- PURGE (R141, R144). -/
def execPurge (k : PortId) (b : Byte) (early : Bool) (s : State) : Host.Outcome State Fault Refusal :=
  if s.byteStep k b = .purge then
    match s.judgeAdmin k (purgeTarget b) with
    | .error st => .next (s.shift k early st.code).resume
    | .ok none => .next (s.purgeUq.shift k early Status.done.code).resume
    | .ok (some j) => .next ((s.purgeInbox j).shift k early Status.done.code).resume
  else .next s.resume

/-- An ABM becomes due where a DRAIN finds an ACTIVE link sending a record whose EOM has not begun (R145, R171). -/
def State.drainAbm (s : State) (x : LinkId) : State :=
  match (s.link x).sending with
  | none => s
  | some sd =>
    if (s.link x).state = .active ∧ sd.progress ≠ .eomBegun then s.setLink x { s.link x with abmDue := true } else s

/-- DRAIN of link `x` (R74, R145, R168): the ABM made due, every committed record of its classes discarded as one
event, the run counter 0, and the transmitter choosing again. -/
def State.drainLink (s : State) (x : LinkId) : State :=
  let ns := s.committedOf (.link x)
  ((((s.drainAbm x).discardMany ns).setRun (.link x) 0).passOn s (s.returnedByMany ns)).transmitterChoose x

/-- DRAIN (R141, R145). -/
def execDrain (k : PortId) (b : Byte) (early : Bool) (s : State) : Host.Outcome State Fault Refusal :=
  if s.byteStep k b = .drain then
    match s.judgeAdmin k (linkOfByte b) with
    | .error st => .next (s.shift k early st.code).resume
    | .ok x => .next ((s.drainLink x).shift k early Status.done.code).resume
  else .next s.resume

/-- What a restart does on every port: the loan is cleared, the watch absent, the timer stopped, and the host set
becomes RESTARTED alone (R98, R129). -/
def Port.restartOwn (p : Port) : Port :=
  { p with loan := none, readout := none, watch := .absent, timer := none, hostSet := HostEvent.restarted.bit }

/-- What it does on a port other than the requester: its open transaction also ends (R98). A CLAIM there that comes together
with the RESTART and is taken after it is then ignored (R83), though R146 has it HELD in either order (log 31). -/
def Port.restartOther (p : Port) : Port := (if p.tx.isOpen then p.endTx else p).restartOwn

/-- What it does on a link: an enabled link enters HOLD with exit START, a disabled one is OFF; everything dynamic is
cleared and the last fault is NONE (R163). -/
def Link.restart (l : Link) : Link :=
  { l with
    state := if l.ctrl.enable then .hold else .off
    fillsSent := 0
    fillSeen := false
    settle := 0
    silence := false
    holdTimer := l.ctrl.enable
    holdExit := if l.ctrl.enable then .start else l.holdExit
    credit := 0
    pendingGrants := 0
    abmDue := false
    isOpen := false
    lastFault := .noFault
    reserved := []
    sending := none
    hdr := [] }

/-- RESTART taken from port `k` (R22, R41, R58, R77, R98, R117, R129, R146, R163, R179): all dynamic state at its
power-on condition; configuration, role, fences and masks kept. -/
def State.restartAll (s : State) (k : PortId) : State :=
  { s with
    free := allCells
    records := Vector.replicate 128 none
    slots := Vector.replicate 6 none
    usage := Vector.replicate 6 0
    classes := s.classes.map fun c => { recs := [], reserved := 0, depth := c.depth }
    uq := { recs := [], reserved := 0 }
    runCount := Vector.replicate 6 0
    ports := vset (s.ports.map Port.restartOther) k (s.port k).restartOwn
    links := s.links.map Link.restart
    mgrSet := 0
    owed := []
    ahead := none }

/-- RESTART (R141, R146). -/
def execRestart (k : PortId) (early : Bool) (s : State) : Host.Outcome State Fault Refusal :=
  if s.byteStep k 0x7F = .restart then
    let s1 := s.setTx k (.running .restart)
    match s1.judgeAdmin k (some ()) with
    | .error st => .next (s1.shift k early st.code).resume
    | .ok _ => .next ((s1.restartAll k).shift k early Status.done.code).resume
  else .next s.resume

end Sys2Proof.Machine
end

