-- ==== Sys2Proof/Machine/Events.lean ====
section
/-! DEFINITION. The event requests (chapter 7): EVENTS, MASK and MANAGER_MASK_WRITE. -/

namespace Sys2Proof.Machine

/-- The snapshot of port `k`: its host set, and the manager set if it holds the role, with no late raises (R123). -/
def State.takeSnapshot (s : State) (k : PortId) : Snapshot :=
  { host := (s.port k).hostSet, hostLate := 0, mgr := if s.manager = some k then some (s.mgrSet, 0) else none }

/-- Out byte 2 of EVENTS: the manager part, or 0x00 when it is absent (R123). -/
def Snapshot.mgrByte (sn : Snapshot) : Byte :=
  match sn.mgr with
  | none => 0x00
  | some (part, _) => part

/-- EVENTS (R123): the snapshot is taken and formed into out bytes 1 and 2; no set changes. -/
def execEvents (k : PortId) (early : Bool) (s : State) : Host.Outcome State Fault Refusal :=
  if s.byteStep k 0x30 = .events then
    let sn := s.takeSnapshot k
    let s1 := s.setPort k { s.port k with tx := .running .events, snapshot := some sn, replyRest := [sn.mgrByte] }
    .next (s1.shift k early sn.host).resume
  else .next s.resume

/-- MASK (R126): at in byte 1 the host mask is written. -/
def execMask (k : PortId) (b : Byte) (early : Bool) (s : State) : Host.Outcome State Fault Refusal :=
  if s.byteStep k b = .mask then
    .next ((s.setPort k { s.port k with hostMask := b }).shift k early 0x00).resume
  else .next s.resume

/-- MANAGER_MASK_WRITE (R126): at in byte 2 of MASK the manager mask is written if the port holds the role. -/
def execManagerMaskWrite (k : PortId) (b : Byte) (early : Bool) (s : State) : Host.Outcome State Fault Refusal :=
  if s.byteStep k b = .managerMask then
    let s1 := if s.manager = some k then s.setManager s.manager b else s
    .next (s1.shift k early 0x00).resume
  else .next s.resume

end Sys2Proof.Machine
end

