-- ==== Sys2Proof/Machine/Fetching.lean ====
section
/-! DEFINITION. Fetching (chapter 6): FETCH, FETCH_UQ and RELEASE. -/

namespace Sys2Proof.Machine

/-- Record `n` lent to port `k`: LOANED, and the port's loan names it with its queue (R13, R108). -/
def State.lend (s : State) (k : PortId) (n : RecId) (q : LoanQueue) : State :=
  (s.setRecState n .loaned).setPort k { s.port k with loan := some { recId := n, queue := q } }

/-- A new choice in the port's own inbox, by service order (R108). -/
def State.lendInbox (s : State) (k : PortId) : State × Status :=
  match s.choice (.host k) with
  | none => (s, .empty)
  | some (n, c, run) => ((s.setRun (.host k) run).lend k n (.inbox c), .message)

/-- A new choice in the UQ: its head (R108, R115). -/
def State.lendUq (s : State) (k : PortId) : State × Status :=
  match s.uq.recs with
  | [] => (s, .empty)
  | n :: _ => (s.lend k n .uq, .message)

/-- The judgement of a FETCH in its order, with the UQ flag as given (R107). -/
def State.judgeFetch (s : State) (k : PortId) (uq : Bool) : State × Status :=
  if (s.port k).fenced then (s, .fenced)
  else if (s.port k).loan.isSome then (s, .message)
  else if uq then (if s.manager ≠ some k then (s, .notManager) else s.lendUq k)
  else s.lendInbox k

/-- With MESSAGE the transaction's readout record is the loaned record and its auto-release flag is kept (R107). -/
def State.startReadout (s : State) (k : PortId) (flags : Byte) (st : Status) : State :=
  if st = .message then
    s.setPort k
      { s.port k with readout := (s.port k).loan.map (·.recId), autoRelease := autoReleaseFlag flags }
  else s

/-- A FETCH taken at in byte 1: judged, its status in out byte 2 (R107). -/
def State.fetchStep (s : State) (k : PortId) (b : Byte) (early uq : Bool) : State :=
  let j := s.judgeFetch k uq
  (j.1.startReadout k b j.2).shift k early j.2.code

/-- FETCH (R107), with the UQ flag clear. -/
def execFetch (k : PortId) (b : Byte) (early : Bool) (s : State) : Host.Outcome State Fault Refusal :=
  if s.byteStep k b = .fetch then .next (s.fetchStep k b early false).resume else .next s.resume

/-- FETCH_UQ (R115), with the UQ flag set. -/
def execFetchUq (k : PortId) (b : Byte) (early : Bool) (s : State) : Host.Outcome State Fault Refusal :=
  if s.byteStep k b = .fetchUq then .next (s.fetchStep k b early true).resume else .next s.resume

/-- The effect and verdict of RELEASE (R113). -/
def State.releaseLoan (s : State) (k : PortId) : State × Status :=
  if (s.port k).fenced then (s, .fenced)
  else
    match (s.port k).loan with
    | none => (s, .noLoan)
    | some l => (s.discard l.recId, .done)

/-- RELEASE (R113). -/
def execRelease (k : PortId) (early : Bool) (s : State) : Host.Outcome State Fault Refusal :=
  if s.byteStep k 0x21 = .release then
    let r := (s.setTx k (.running .release)).releaseLoan k
    .next (r.1.shift k early r.2.code).resume
  else .next s.resume

end Sys2Proof.Machine
end

