-- ==== Sys2Proof/Machine/HostPort.lean ====
section
/-! DEFINITION. Host ports (chapter 5): SELECT_FALL, SELECT_RISE, UNDEFINED_REQUEST_CODE, POST_TIMEOUT, NOP, QUERY and
PORT_RESET. -/

namespace Sys2Proof.Machine

/-- A transaction opened: the port counts in bytes from 0 and presents the summary byte (R80, R83). -/
def Port.openTx (p : Port) (summary : Byte) : Port :=
  { p with
    selLow := true, tx := .opened, inCount := 0, inBytes := [], outFormed := some summary, outShifted := none,
    spoilt := [], replyRest := [], readout := none, autoRelease := false, phase := .noPost, timer := none,
    snapshot := none }

/-- The port after the rise of select: IDLE, HPk_DO at high impedance, the timer stopped, and everything of the
transaction left behind (R85, R103, R124). -/
def Port.closeTx (p : Port) : Port :=
  { p with
    selLow := false, tx := .idle, inCount := 0, inBytes := [], outFormed := none, outShifted := none, spoilt := [],
    replyRest := [], readout := none, autoRelease := false, phase := .noPost, timer := none, snapshot := none }

/-- SELECT_FALL (R83): a fall of HPk_SEL opens a transaction. A fall needs a select that is high (log 19). -/
def execSelectFall (k : PortId) (s : State) : Host.Outcome State Fault Refusal :=
  if (s.port k).selLow = false then .next (s.setPort k ((s.port k).openTx (s.summary k))).resume else .next s.resume

/-- The closing action of a POST in FILLING: commit, or discard with POST ABORTED (R103). -/
def State.closePost (s : State) (k : PortId) : State :=
  match s.slot (.host k) with
  | none => s
  | some n =>
    match s.record n with
    | none => s
    | some r => if r.filled = r.length then s.commit n else s.abortPost k

/-- The closing action of a FETCH: auto-release of a message whose payload was all shifted out in full (R111). -/
def State.closeFetch (s : State) (k : PortId) : State :=
  match (s.port k).loan, s.readoutRecord k with
  | some l, some r =>
    if (s.port k).autoRelease = true ∧ (s.port k).fullReadout r.length = true then s.discard l.recId else s
  | _, _ => s

/-- The closing action of EVENTS: the snapshot's kinds less their late raises are cleared, if out bytes 1 and 2 were
both shifted out in full (R124). -/
def State.closeEvents (s : State) (k : PortId) : State :=
  match (s.port k).snapshot with
  | none => s
  | some sn =>
    if (s.port k).fullOut 1 = true ∧ (s.port k).fullOut 2 = true then
      { s.setPort k { s.port k with hostSet := clearSnapshot (s.port k).hostSet sn.host sn.hostLate } with
        mgrSet :=
          match sn.mgr with
          | none => s.mgrSet
          | some (part, late) => clearSnapshot s.mgrSet part late }
    else s

/-- The closing action of the transaction on port `k` (R85). An ended transaction makes none (R86). -/
def State.closingAction (s : State) (k : PortId) : State :=
  match (s.port k).tx with
  | .running .post => if (s.port k).phase = .filling then s.closePost k else s
  | .running .fetch => s.closeFetch k
  | .running .events => s.closeEvents k
  | _ => s

/-- SELECT_RISE (R85): a rise of HPk_SEL makes the closing action and returns the port to IDLE. A rise needs a select
that is low (log 19). -/
def execSelectRise (k : PortId) (s : State) : Host.Outcome State Fault Refusal :=
  if (s.port k).selLow = true then
    let s1 := s.closingAction k
    .next (s1.setPort k (s1.port k).closeTx).resume
  else .next s.resume

/-- UNDEFINED_REQUEST_CODE (R87): UNKNOWN in out byte 1, PROTOCOL raised, the transaction ended. -/
def execUndefinedRequestCode (k : PortId) (code : Byte) (early : Bool) (s : State) :
    Host.Outcome State Fault Refusal :=
  if s.byteStep k code = .undefinedCode then
    let s1 := s.raiseHost k .protocol
    .next ((s1.setPort k (s1.port k).endTx).shift k early Status.unknown.code).resume
  else .next s.resume

/-- POST_TIMEOUT (R89): the expiry of a running post timer ends the transaction; a TAKEN record is discarded with POST
ABORTED. A stopped timer does not expire. -/
def execPostTimeout (k : PortId) (s : State) : Host.Outcome State Fault Refusal :=
  if (s.port k).timer.isSome then
    let s1 := if (s.port k).phase = .filling then s.abortPost k else s
    .next (s1.setPort k (s1.port k).endTx).resume
  else .next s.resume

/-- NOP (R93): takes nothing and changes nothing but the transaction. -/
def execNop (k : PortId) (early : Bool) (s : State) : Host.Outcome State Fault Refusal :=
  if s.byteStep k 0x00 = .nop then .next ((s.setTx k (.running .nop)).shift k early 0x00).resume else .next s.resume

/-- QUERY (R95): one snapshot formed into out bytes 1 to 12. -/
def execQuery (k : PortId) (early : Bool) (s : State) : Host.Outcome State Fault Refusal :=
  if s.byteStep k 0x40 = .query then
    let snap := s.querySnapshot k
    .next (((s.setTx k (.running .query)).setReply k snap.tail).shift k early (snap.headD 0x00)).resume
  else .next s.resume

/-- What PORT RESET does to its own port but for the loan: watch absent, host set empty, host mask 0 (R94). -/
def Port.resetOwn (p : Port) : Port := { p with watch := .absent, hostSet := 0, hostMask := 0 }

/-- PORT RESET's effects (R94): loan cleared without removal, watch, host set and mask cleared, the role resigned. -/
def State.portReset (s : State) (k : PortId) : State :=
  let s1 := s.clearLoan k
  let s2 := s1.setPort k (s1.port k).resetOwn
  if s2.manager = some k then s2.setManager none 0 else s2

/-- PORT_RESET (R94). -/
def execPortReset (k : PortId) (early : Bool) (s : State) : Host.Outcome State Fault Refusal :=
  if s.byteStep k 0x52 = .portReset then
    .next (((s.setTx k (.running .portReset)).portReset k).shift k early Status.done.code).resume
  else .next s.resume

end Sys2Proof.Machine
end

