-- ==== Sys2Proof/Machine/Items.lean ====
section
/-! DEFINITION. Item writes (chapter 8): WRITE_ITEM, ROUTE_WRITE, PORTADDR_WRITE, GUARANTEE_WRITE, LIMIT_WRITE,
DEPTH_WRITE, RUNLIMIT_WRITE, POSTTIMEOUT_WRITE, LOWMARK_WRITE, LINK_ENABLE and LINK_DISABLE. Each is judged at in byte 6
and, if DONE, replaces its item at once (R136). -/

namespace Sys2Proof.Machine

/-- The verdict of a write formed into out byte 7, with the effect of one that passed every check (R136). -/
def State.answerWrite {α : Type} (s : State) (k : PortId) (early : Bool) (verdict : Except Status α)
    (effect : α → State) : State :=
  match verdict with
  | .error st => s.shift k early st.code
  | .ok a => (effect a).shift k early Status.done.code

/-- The links that an account's event concerns by its limit: the link itself, or none for a host (R36, R137). -/
def ownLink : Party → List LinkId
  | .host _ => []
  | .link x => [x]

/-! ### The items' own checks (checks 4 to 6 of R136) -/

/-- ROUTE: RANGE and DUPLICATE (R44). -/
def State.routeCheck (s : State) (w : ItemWrite) : Except Status (Fin 32 × RouteEntry) :=
  match routeOfByte w.index, w.routeEntry with
  | some i, some e => if e.valid = true ∧ s.otherHolds i e.address = true then .error .duplicate else .ok (i, e)
  | _, _ => .error .range

/-- PORTADDR: RANGE of its index (R96). -/
def portaddrCheck (w : ItemWrite) : Except Status (PortId × Byte) :=
  match portOfByte w.index with
  | some j => .ok (j, w.v3)
  | none => .error .range

/-- GUARANTEE: RANGE and CONFLICT (R35). -/
def State.guaranteeCheck (s : State) (w : ItemWrite) : Except Status (Party × Nat) :=
  match partyOfByte w.index with
  | none => .error .range
  | some p =>
    let g := twoBytes w.v2 w.v3
    if Config.cellCount < g ∨ s.lim p < g then .error .range
    else if Config.cellCount < s.sumGuaranteeWith p g ∨
        Config.cellCount < s.sharedUsageWith p g + s.sumGuaranteeWith p g then .error .conflict
    else .ok (p, g)

/-- LIMIT: RANGE (R36). -/
def State.limitCheck (s : State) (w : ItemWrite) : Except Status (Party × Nat) :=
  match partyOfByte w.index with
  | none => .error .range
  | some p =>
    let l := twoBytes w.v2 w.v3
    if l < s.guar p ∨ Config.cellCount < l then .error .range else .ok (p, l)

/-- DEPTH: RANGE and CONFLICT (R63). -/
def State.depthCheck (s : State) (w : ItemWrite) : Except Status (QueueId × Nat) :=
  match classOfByte w.index with
  | none => .error .range
  | some q =>
    let d := w.v3.toNat
    if d = 0 ∨ 16 < d then .error .range
    else if d < (s.qclass q).occupancy ∨ Config.depthBudget < s.sumDepthWith q d then .error .conflict
    else .ok (q, d)

/-- RUNLIMIT: RANGE (R70). -/
def runlimitCheck (w : ItemWrite) : Except Status (Party × Nat) :=
  match partyOfByte w.index with
  | none => .error .range
  | some p => if w.v3.toNat = 0 ∨ 15 < w.v3.toNat then .error .range else .ok (p, w.v3.toNat)

/-- POSTTIMEOUT: RANGE of its index (R139). -/
def posttimeoutCheck (w : ItemWrite) : Except Status Nat :=
  if w.index = 0 then .ok w.v3.toNat else .error .range

/-- LOWMARK: RANGE (R139). -/
def lowmarkCheck (w : ItemWrite) : Except Status Nat :=
  if w.index = 0 ∧ twoBytes w.v2 w.v3 ≤ 511 then .ok (twoBytes w.v2 w.v3) else .error .range

/-- LINKCTRL: RANGE (R138). -/
def linkCtrlCheck (w : ItemWrite) : Except Status (LinkId × LinkCtrl) :=
  match linkOfByte w.index, w.linkCtrl with
  | some x, some c => .ok (x, c)
  | _, _ => .error .range

/-! ### The effects of a write that passes every check (R137) -/

/-- A route entry replaced whole (R44). -/
def State.setRoute (s : State) (i : Fin 32) (e : RouteEntry) : State := { s with routes := vset s.routes i e }

/-- A port address replaced (R96). -/
def State.setPortAddr (s : State) (j : PortId) (a : Byte) : State := s.setPort j { s.port j with portAddr := a }

/-- G[p] replaced: an event for the CELLS watches and both links' reservations (R35, R137). -/
def State.setGuarantee (s : State) (p : Party) (g : Nat) : State :=
  State.accountsEvent { s with guarantee := vset s.guarantee p.num g } bothLinks true

/-- L[p] replaced: an event for the CELLS watches and, for a link, its own reservation (R36, R137). -/
def State.setLimit (s : State) (p : Party) (l : Nat) : State :=
  State.accountsEvent { s with limit := vset s.limit p.num l } (ownLink p) true

/-- A depth limit replaced: an event for the DEPTH watches of the class (R63, R137). -/
def State.setDepth (s : State) (q : QueueId) (d : Nat) : State :=
  (s.setClass q { s.qclass q with depth := d }).judgeDepth [q]

/-- A run limit replaced; the counter stays as it stands (R70). -/
def State.setRunLimit (s : State) (p : Party) (n : Nat) : State := { s with runLimit := vset s.runLimit p.num n }

/-- The POSTTIMEOUT setting replaced (R139). -/
def State.setPostTimeout (s : State) (n : Nat) : State := { s with postTimeout := n }

/-- The low mark replaced; the write raises nothing (R139). -/
def State.setLowMark (s : State) (n : Nat) : State := { s with lowMark := n }

/-- All five fields of LINKCTRL replaced (R138). -/
def State.setCtrl (s : State) (x : LinkId) (c : LinkCtrl) : State := s.setLink x { s.link x with ctrl := c }

/-- LINKCTRL replaced with no change of enable: the window acts at once on later reservations, those left of the link being
made by the old one (R34, R138). -/
def State.writeCtrl (s : State) (x : LinkId) (c : LinkCtrl) : State := ((s.finish x).setCtrl x c).accountsEvent [x] false

/-- LINKCTRL replaced with enable going from 0 to 1: an OFF link enters START (R152, R160). -/
def State.enableCtrl (s : State) (x : LinkId) (c : LinkCtrl) : State :=
  let s1 := s.setCtrl x c
  if (s1.link x).state = .off then s1.setLink x (s1.link x).toStart else s1

/-- LINKCTRL replaced with enable going from 1 to 0: the link is disabled, after the reserve ones left of it (R160). -/
def State.disableCtrl (s : State) (x : LinkId) (c : LinkCtrl) : State := ((s.finish x).setCtrl x c).disableLink x

/-! ### The steps -/

/-- WRITE_ITEM (R136, R138): a write of LINKCTRL without a change of enable, of a read-only item, or of no item. -/
def execWriteItem (k : PortId) (b : Byte) (early : Bool) (s : State) : Host.Outcome State Fault Refusal :=
  if s.byteStep k b = .writeItem then
    let w := (s.port k).itemWrite b
    let own := if w.id = 0x07 then linkCtrlCheck w else .error .range
    .next (s.answerWrite k early (s.judgeWrite k w own) fun a => s.writeCtrl a.1 a.2).resume
  else .next s.resume

/-- ROUTE_WRITE (R44). -/
def execRouteWrite (k : PortId) (b : Byte) (early : Bool) (s : State) : Host.Outcome State Fault Refusal :=
  if s.byteStep k b = .routeWrite then
    let w := (s.port k).itemWrite b
    .next (s.answerWrite k early (s.judgeWrite k w (s.routeCheck w)) fun a => s.setRoute a.1 a.2).resume
  else .next s.resume

/-- PORTADDR_WRITE (R96). -/
def execPortaddrWrite (k : PortId) (b : Byte) (early : Bool) (s : State) : Host.Outcome State Fault Refusal :=
  if s.byteStep k b = .portaddrWrite then
    let w := (s.port k).itemWrite b
    .next (s.answerWrite k early (s.judgeWrite k w (portaddrCheck w)) fun a => s.setPortAddr a.1 a.2).resume
  else .next s.resume

/-- GUARANTEE_WRITE (R35). -/
def execGuaranteeWrite (k : PortId) (b : Byte) (early : Bool) (s : State) : Host.Outcome State Fault Refusal :=
  if s.byteStep k b = .guaranteeWrite then
    let w := (s.port k).itemWrite b
    .next (s.answerWrite k early (s.judgeWrite k w (s.guaranteeCheck w)) fun a => s.setGuarantee a.1 a.2).resume
  else .next s.resume

/-- LIMIT_WRITE (R36). -/
def execLimitWrite (k : PortId) (b : Byte) (early : Bool) (s : State) : Host.Outcome State Fault Refusal :=
  if s.byteStep k b = .limitWrite then
    let w := (s.port k).itemWrite b
    .next (s.answerWrite k early (s.judgeWrite k w (s.limitCheck w)) fun a => s.setLimit a.1 a.2).resume
  else .next s.resume

/-- DEPTH_WRITE (R63). -/
def execDepthWrite (k : PortId) (b : Byte) (early : Bool) (s : State) : Host.Outcome State Fault Refusal :=
  if s.byteStep k b = .depthWrite then
    let w := (s.port k).itemWrite b
    .next (s.answerWrite k early (s.judgeWrite k w (s.depthCheck w)) fun a => s.setDepth a.1 a.2).resume
  else .next s.resume

/-- RUNLIMIT_WRITE (R70). -/
def execRunlimitWrite (k : PortId) (b : Byte) (early : Bool) (s : State) : Host.Outcome State Fault Refusal :=
  if s.byteStep k b = .runlimitWrite then
    let w := (s.port k).itemWrite b
    .next (s.answerWrite k early (s.judgeWrite k w (runlimitCheck w)) fun a => s.setRunLimit a.1 a.2).resume
  else .next s.resume

/-- POSTTIMEOUT_WRITE (R139). -/
def execPosttimeoutWrite (k : PortId) (b : Byte) (early : Bool) (s : State) : Host.Outcome State Fault Refusal :=
  if s.byteStep k b = .posttimeoutWrite then
    let w := (s.port k).itemWrite b
    .next (s.answerWrite k early (s.judgeWrite k w (posttimeoutCheck w)) fun n => s.setPostTimeout n).resume
  else .next s.resume

/-- LOWMARK_WRITE (R139). -/
def execLowmarkWrite (k : PortId) (b : Byte) (early : Bool) (s : State) : Host.Outcome State Fault Refusal :=
  if s.byteStep k b = .lowmarkWrite then
    let w := (s.port k).itemWrite b
    .next (s.answerWrite k early (s.judgeWrite k w (lowmarkCheck w)) fun n => s.setLowMark n).resume
  else .next s.resume

/-- LINK_ENABLE (R160): a LINKCTRL write that sets enable from 0 to 1. -/
def execLinkEnable (k : PortId) (b : Byte) (early : Bool) (s : State) : Host.Outcome State Fault Refusal :=
  if s.byteStep k b = .linkEnable then
    let w := (s.port k).itemWrite b
    .next (s.answerWrite k early (s.judgeWrite k w (linkCtrlCheck w)) fun a => s.enableCtrl a.1 a.2).resume
  else .next s.resume

/-- LINK_DISABLE (R160): a LINKCTRL write that sets enable from 1 to 0. -/
def execLinkDisable (k : PortId) (b : Byte) (early : Bool) (s : State) : Host.Outcome State Fault Refusal :=
  if s.byteStep k b = .linkDisable then
    let w := (s.port k).itemWrite b
    .next (s.answerWrite k early (s.judgeWrite k w (linkCtrlCheck w)) fun a => s.disableCtrl a.1 a.2).resume
  else .next s.resume

end Sys2Proof.Machine
end

