-- ==== Sys2Proof/Machine/Manager.lean ====
section
/-! DEFINITION. The manager slot and item reads (chapter 8): CLAIM, RESIGN and READ_ITEM. -/

namespace Sys2Proof.Machine

/-- The effect and verdict of CLAIM (R131). -/
def State.claimRole (s : State) (k : PortId) : State × Status :=
  if (s.port k).fenced then (s, .fenced)
  else
    match s.manager with
    | none => (s.setManager (some k) 0, .done)
    | some m => if m = k then (s, .done) else (s, .held)

/-- CLAIM (R131). -/
def execClaim (k : PortId) (early : Bool) (s : State) : Host.Outcome State Fault Refusal :=
  if s.byteStep k 0x50 = .claim then
    let r := (s.setTx k (.running .claim)).claimRole k
    .next (r.1.shift k early r.2.code).resume
  else .next s.resume

/-- A loan from the UQ cleared without removal; a loan from the inbox is kept (R106, R133). -/
def State.clearUqLoan (s : State) (k : PortId) : State :=
  if (s.port k).loan.map (·.queue) = some .uq then s.clearLoan k else s

/-- The effect and verdict of RESIGN (R133). -/
def State.resignRole (s : State) (k : PortId) : State × Status :=
  if (s.port k).fenced then (s, .fenced)
  else if s.manager ≠ some k then (s, .notManager)
  else ((s.setManager none 0).clearUqLoan k, .done)

/-- RESIGN (R133). -/
def execResign (k : PortId) (early : Bool) (s : State) : Host.Outcome State Fault Refusal :=
  if s.byteStep k 0x51 = .resign then
    let r := (s.setTx k (.running .resign)).resignRole k
    .next (r.1.shift k early r.2.code).resume
  else .next s.resume

/-- The reply to READ ITEM: its verdict and the value bytes that follow it (R135). -/
def State.readReply (s : State) (k : PortId) (id index : Byte) : Status × List Byte :=
  if (s.port k).fenced then (.fenced, [])
  else
    match s.itemValue id index with
    | none => (.range, [])
    | some v => (.done, v)

/-- READ_ITEM (R135): at in byte 2 a sample of the item is taken and the verdict formed. -/
def execReadItem (k : PortId) (b : Byte) (early : Bool) (s : State) : Host.Outcome State Fault Refusal :=
  if s.byteStep k b = .readItem then
    let r := s.readReply k ((s.port k).inBytes.getD 0 0) b
    .next ((s.setReply k r.2).shift k early r.1.code).resume
  else .next s.resume

end Sys2Proof.Machine
end

