-- ==== Sys2Proof/Machine/Posting.lean ====
section
/-! DEFINITION. Posting (chapter 6): POST and POST_PAYLOAD_BYTE. -/

namespace Sys2Proof.Machine

/-- The record created for a POST (R7). -/
def State.postRecord (s : State) (k : PortId) (h : PostHeader) (q : QueueId) (n : Nat) : Record :=
  { origin := .host k, srcAddr := (s.port k).portAddr, dstAddr := h.dst, tag := h.tag, cls := controlClass h.control,
    hops := controlHops h.control, length := h.length, filled := 0, cells := s.free.take n, target := .queue q,
    reason := none, state := .assembling, resends := 0 }

/-- The TAKEN step but for the port: place reserved, cells taken, record `m` created in the slot, low mark tested (R2,
R4, R101). -/
def State.takePost (s : State) (k : PortId) (h : PostHeader) (q : QueueId) (n : Nat) (m : RecId) : State :=
  (((((s.setFree (s.free.drop n)).setUsed (.host k) (s.used (.host k) + n)).reservePlace (.queue q)).setRecord m
        (some (s.postRecord k h q n))).setSlot (.host k) (some m)).lowMarkTest s.free.length

/-- The port after the judgement: its phase, its watch if the verdict sets one, and in byte 5 kept (R37, R99). -/
def State.postPhase (s : State) (k : PortId) (b : Byte) (ph : PostPhase) (w : Option Watch) : State :=
  s.setPort k
    { s.port k with phase := ph, watch := w.getD (s.port k).watch, inBytes := (s.port k).inBytes ++ [b] }

/-- The verdict of a POST with the state it is judged against. Where the class it is aimed at was full before a fall that came
together with it, its claim may have been taken before the fall, and the whole POST is then judged as before it: FULL, with
the watch set after the fall (R66). The free value says which (log 30). -/
def State.verdict (s : State) (k : PortId) (h : PostHeader) : PostVerdict × State :=
  match s.ahead with
  | none => (s.judgePost k h, s)
  | some q =>
    let s1 : State := { s with ahead := none, ties := s.ties + 1 }
    if Config.freeTie s.ties % 2 = 0 then (.full q, s1) else (s1.judgePost k h, s1)

/-- The answer of a POST, with the phase and the watch it leaves (R88). -/
def State.answerPost (s : State) (k : PortId) (b : Byte) (early : Bool) (ph : PostPhase) (w : Option Watch)
    (st : Status) : State :=
  ((s.postPhase k b ph w).startTimer k).shift k early st.code

/-- POST (R100): at in byte 5 a POST is judged; on TAKEN its place, cells and record are made. -/
def execPost (k : PortId) (b : Byte) (early : Bool) (s : State) : Host.Outcome State Fault Refusal :=
  if s.byteStep k b = .post then
    let h := (s.port k).postHeader b
    match s.verdict k h with
    | (.refused st, s) => .next (s.answerPost k b early .refused none st).resume
    | (.full q, s) => .next (s.answerPost k b early .refused (some (.depth q)) .full).resume
    | (.noCells n, s) => .next (s.answerPost k b early .refused (some (.cells n)) .noCells).resume
    | (.taken q n, s) =>
      match s.freeRecord with
      | none => .fault .recordTableFull
      | some m => .next ((s.takePost k h q n m).answerPost k b early .filling (some .absent) .taken).resume
  else .next s.resume

/-- The payload byte of a POST stored, unless the declared length is reached (R102). -/
def State.fillPost (s : State) (k : PortId) (b : Byte) : State :=
  match s.slot (.host k) with
  | none => s
  | some n =>
    match s.record n with
    | none => s
    | some r => if r.filled < r.length then s.storePayload n b else s

/-- POST_PAYLOAD_BYTE (R102): one in byte of a POST in FILLING; bytes beyond the declared length are not stored. -/
def execPostPayloadByte (k : PortId) (b : Byte) (early : Bool) (s : State) : Host.Outcome State Fault Refusal :=
  if s.byteStep k b = .payload then .next (((s.fillPost k b).startTimer k).shift k early 0x00).resume else .next s.resume

end Sys2Proof.Machine
end

