-- ==== Sys2Proof/Machine/InByte.lean ====
section
/-! DEFINITION. IN_BYTE_COMPLETION (chapters 5 and 6): the completion of an in byte that is no other step, and the bytes
that are (log 4). -/

namespace Sys2Proof.Machine

/-- A request that is taken at a later byte starts at in byte 0; POST enters HEADER and starts its timer (R84, R88,
R99). -/
def State.startRequest (s : State) (k : PortId) (r : Request) : State :=
  let s1 := s.setTx k (.running r)
  if r = .post then (s1.setPort k { s1.port k with phase := .header }).startTimer k else s1

/-- A request keeps an in byte: POST its header, READ ITEM and WRITE ITEM theirs (R99, R135, R136). -/
def Port.keeps (p : Port) : Request → Bool
  | .post => p.phase == .header
  | .readItem => p.inCount == 1
  | .writeItem => decide (1 ≤ p.inCount ∧ p.inCount ≤ 5)
  | _ => false

/-- The in byte kept, if the request keeps it. -/
def State.keepByte (s : State) (k : PortId) (r : Request) (b : Byte) : State :=
  if (s.port k).keeps r then s.setPort k { s.port k with inBytes := (s.port k).inBytes ++ [b] } else s

/-- The out byte that the running request forms next: a FETCH readout byte from the record as it stands (R110), or the
next sampled reply byte, or 0x00 (R80). -/
def State.nextOut (s : State) (k : PortId) (r : Request) : Byte :=
  match r with
  | .fetch =>
    match s.readoutRecord k with
    | none => 0x00
    | some rec => s.readoutByte rec ((s.port k).inCount + 1)
  | _ => (s.port k).replyRest.headD 0x00

/-- An in byte of a running request that is not taken: kept if the request keeps it, the post timer restarted in a POST
(R88), the next out byte formed, and the sampled reply moved on. -/
def State.runningByte (s : State) (k : PortId) (r : Request) (b : Byte) (early : Bool) : State :=
  let s1 := s.keepByte k r b
  let s2 := if r = .post then s1.startTimer k else s1
  (s2.setReply k (s2.port k).replyRest.tail).shift k early (s.nextOut k r)

/-- The in byte as IN_BYTE_COMPLETION's own step, by the state of the transaction (R83). -/
def State.plainByte (s : State) (k : PortId) (b : Byte) (early : Bool) : State :=
  match (s.port k).tx with
  | .idle => s
  | .opened =>
    match decodeRequest b with
    | none => s
    | some r => (s.startRequest k r).shift k early 0x00
  | .running r => s.runningByte k r b early
  | .ended => s.shift k early 0x00

/-- IN_BYTE_COMPLETION (R79, R83): an in byte of value `b` completes on port `k`. Where the byte is the taken byte of a
request, it makes that step (log 4). -/
def execInByteCompletion (k : PortId) (b : Byte) (early : Bool) (s : State) : Host.Outcome State Fault Refusal :=
  match s.byteStep k b with
  | .ignored => .next s.resume
  | .plain => .next (s.plainByte k b early).resume
  | .undefinedCode => execUndefinedRequestCode k b early s
  | .nop => execNop k early s
  | .post => execPost k b early s
  | .payload => execPostPayloadByte k b early s
  | .fetch => execFetch k b early s
  | .fetchUq => execFetchUq k b early s
  | .release => execRelease k early s
  | .events => execEvents k early s
  | .mask => execMask k b early s
  | .managerMask => execManagerMaskWrite k b early s
  | .query => execQuery k early s
  | .claim => execClaim k early s
  | .resign => execResign k early s
  | .portReset => execPortReset k early s
  | .readItem => execReadItem k b early s
  | .writeItem => execWriteItem k b early s
  | .routeWrite => execRouteWrite k b early s
  | .portaddrWrite => execPortaddrWrite k b early s
  | .guaranteeWrite => execGuaranteeWrite k b early s
  | .limitWrite => execLimitWrite k b early s
  | .depthWrite => execDepthWrite k b early s
  | .runlimitWrite => execRunlimitWrite k b early s
  | .posttimeoutWrite => execPosttimeoutWrite k b early s
  | .lowmarkWrite => execLowmarkWrite k b early s
  | .linkEnable => execLinkEnable k b early s
  | .linkDisable => execLinkDisable k b early s
  | .fence => execFence k b early s
  | .unfence => execUnfence k b early s
  | .purge => execPurge k b early s
  | .drain => execDrain k b early s
  | .restart => execRestart k early s

end Sys2Proof.Machine
end

