-- ==== Sys2Proof/Machine/LinkRx.lean ====
section
/-! DEFINITION. The link receiver (chapters 9 and 10): RECEIVE_FILL, RECEIVE_GRANT, RECEIVE_HEADER_BYTE, HEADER_STEP,
RECEIVE_PAYLOAD_BYTE, RECEIVE_EOM, RECEIVE_ABM and SYMBOL_ERROR; and the timers' ends SILENCE and HOLD_END. -/

namespace Sys2Proof.Machine

/-- A valid symbol received in ACTIVE restarts the silence timer (R156). -/
def State.heard (s : State) (x : LinkId) : State := s.setLink x { s.link x with silence := true }

/-- RECEIVE_FILL (R151, R153). -/
def execReceiveFill (x : LinkId) (s : State) : Host.Outcome State Fault Refusal :=
  match (s.link x).state with
  | .off => .next s.resume
  | .hold => .next s.resume
  | .start =>
    let s1 := s.setLink x { s.link x with fillSeen := true }
    if (s.link x).fillsSent = 8 then .next (s1.enterActive x).resume else .next s1.resume
  | .active => .next (s.heard x).resume

/-- RECEIVE_GRANT (R151, R155). -/
def execReceiveGrant (x : LinkId) (s : State) : Host.Outcome State Fault Refusal :=
  match (s.link x).state with
  | .off => .next s.resume
  | .hold => .next s.resume
  | .start => .next (s.linkFault x .order).resume
  | .active =>
    if Config.maxCredit ≤ (s.link x).credit then .next (s.linkFault x .credit).resume
    else .next (s.setLink x { s.link x with credit := (s.link x).credit + 1, silence := true }).resume

/-- Where a link message that cannot go to its class goes: the UQ with its reason, or DROP (R51). -/
def State.redirect (s : State) (reason : Reason) : Target × Option Reason :=
  if s.uq.occupancy < Config.uqCapacity then (.uq, some reason) else (.drop, none)

/-- The target of a link message with its reason, decided at its header (R50, R51, R65). -/
def State.linkTarget (s : State) (dst control : Byte) : Target × Option Reason :=
  match s.lookup dst (controlHops control) with
  | .noRoute => s.redirect .noRoute
  | .hops => s.redirect .hops
  | .output d =>
    let q : QueueId := { dest := d, cls := controlClass control }
    if (s.qclass q).occupancy < (s.qclass q).depth then (.queue q, none) else s.redirect .full

/-- The record created for a link frame from its six header bytes (R7). -/
def linkRecord (x : LinkId) (hdr : List Byte) (t : Target × Option Reason) : Record :=
  { origin := .link x, srcAddr := hdr.getD 1 0, dstAddr := hdr.getD 0 0, tag := hdr.getD 3 0,
    cls := controlClass (hdr.getD 2 0), hops := controlHops (hdr.getD 2 0),
    length := twoBytes (hdr.getD 4 0) (hdr.getD 5 0), filled := 0, cells := [], target := t.1, reason := t.2,
    state := .assembling, resends := 0 }

/-- The header step (R174): length check, lookup and target, record. `hdr` are the six header bytes. -/
def State.headerComplete (s : State) (x : LinkId) (hdr : List Byte) : Host.Outcome State Fault Refusal :=
  let len := twoBytes (hdr.getD 4 0) (hdr.getD 5 0)
  if len = 0 ∨ Config.maxLength < len then .next (s.linkFault x .frame).resume
  else
    match s.freeRecord with
    | none => .fault .recordTableFull
    | some n =>
      let t := s.linkTarget (hdr.getD 0 0) (hdr.getD 2 0)
      let s1 := ((s.reservePlace t.1).setRecord n (some (linkRecord x hdr t))).setSlot (.link x) (some n)
      .next (s1.setLink x { s1.link x with hdr := hdr, silence := true }).resume

/-- A header byte 1 to 5 in ACTIVE, held by the receiver only (R173). -/
def State.holdHeaderByte (s : State) (x : LinkId) (b : Byte) : State :=
  s.setLink x
    { s.link x with
      isOpen := true, silence := true, hdr := if (s.link x).isOpen then (s.link x).hdr ++ [b] else [b] }

/-- RECEIVE_HEADER_BYTE (R151, R173): a data symbol that opens a message or is its next header byte; the sixth makes the
header step (log 4). -/
def execReceiveHeaderByte (x : LinkId) (b : Byte) (s : State) : Host.Outcome State Fault Refusal :=
  match (s.link x).state with
  | .off => .next s.resume
  | .hold => .next s.resume
  | .start => .next (s.linkFault x .order).resume
  | .active =>
    if (s.link x).headerDone = true then .next s.resume
    else if (s.link x).headerEnds = true then s.headerComplete x ((s.link x).hdr ++ [b])
    else .next (s.holdHeaderByte x b).resume

/-- HEADER_STEP (R174): header byte 6. -/
def execHeaderStep (x : LinkId) (b : Byte) (s : State) : Host.Outcome State Fault Refusal :=
  match (s.link x).state with
  | .off => .next s.resume
  | .hold => .next s.resume
  | .start => .next (s.linkFault x .order).resume
  | .active =>
    if (s.link x).headerEnds = true then s.headerComplete x ((s.link x).hdr ++ [b]) else .next s.resume

/-- Take one: the oldest reserved cell moves to the tail of record `n`'s cell list (R3, R32). -/
def State.takeOne (s : State) (x : LinkId) (n : RecId) (r : Record) (c : CellId) (rest : List CellId) : State :=
  (s.setLink x { s.link x with reserved := rest }).setRecord n (some { r with cells := r.cells ++ [c] })

/-- A payload byte of the record being received (R175), after the reserve ones left of the link: beyond the length a FRAME
fault; opening a cell a take one, or a CREDIT fault with no reserved cell; stored otherwise. -/
def State.receivePayload (s : State) (x : LinkId) (n : RecId) (r : Record) (b : Byte) : State :=
  let s := s.finish x
  if r.length ≤ r.filled then s.linkFault x .frame
  else if r.filled % Config.cellBytes = 0 then
    match (s.link x).reserved with
    | [] => s.linkFault x .credit
    | c :: rest => ((((s.heard x).takeOne x n r c rest).storePayload n b).accountsEvent [x] false)
  else (s.heard x).storePayload n b

/-- RECEIVE_PAYLOAD_BYTE (R151, R175). -/
def execReceivePayloadByte (x : LinkId) (b : Byte) (s : State) : Host.Outcome State Fault Refusal :=
  match (s.link x).state with
  | .off => .next s.resume
  | .hold => .next s.resume
  | .start => .next (s.linkFault x .order).resume
  | .active =>
    if (s.link x).headerDone = true then
      match s.receiving x with
      | none => .next s.resume
      | some (n, r) => .next (s.receivePayload x n r b).resume
    else .next s.resume

/-- The inbound message is over: the flag no, the header count 0 (R176, R177). -/
def State.endMessage (s : State) (x : LinkId) : State :=
  s.setLink x { s.link x with isOpen := false, hdr := [], silence := true }

/-- The fate of record `n` at its EOM: committed, dropped, or discarded short (R176). -/
def State.eomOutcome (s : State) (n : RecId) (r : Record) : State :=
  if r.filled = r.length then
    match r.target with
    | .drop => (s.discard n).raiseMgr .undeliverableDropped
    | .queue _ => s.commit n
    | .uq => s.commit n
  else (s.discard n).raiseMgr .linkDiscard

/-- RECEIVE_EOM (R151, R176). -/
def execReceiveEom (x : LinkId) (s : State) : Host.Outcome State Fault Refusal :=
  match (s.link x).state with
  | .off => .next s.resume
  | .hold => .next s.resume
  | .start => .next (s.linkFault x .order).resume
  | .active =>
    if (s.link x).isOpen = false then .next (s.linkFault x .order).resume
    else if (s.link x).hdr.length < 6 then .next (s.linkFault x .frame).resume
    else
      match s.receiving x with
      | none => .next (s.endMessage x).resume
      | some (n, r) => .next ((s.endMessage x).eomOutcome n r).resume

/-- RECEIVE_ABM (R151, R177). -/
def execReceiveAbm (x : LinkId) (s : State) : Host.Outcome State Fault Refusal :=
  match (s.link x).state with
  | .off => .next s.resume
  | .hold => .next s.resume
  | .start => .next (s.linkFault x .order).resume
  | .active =>
    if (s.link x).isOpen = false then .next (s.linkFault x .order).resume
    else
      match s.receiving x with
      | none => .next ((s.endMessage x).raiseMgr .linkDiscard).resume
      | some (n, _) => .next (((s.endMessage x).discard n).raiseMgr .linkDiscard).resume

/-- SYMBOL_ERROR (R148, R151): ten bits that are no valid symbol are a SYMBOL fault in START and ACTIVE. -/
def execSymbolError (x : LinkId) (w : SymbolWord) (s : State) : Host.Outcome State Fault Refusal :=
  if decodeSymbol w = none then .next (s.linkFault x .symbol).resume else .next s.resume

/-- SILENCE (R156): the running silence timer of an ACTIVE link reaches 4 µs. -/
def execSilence (x : LinkId) (s : State) : Host.Outcome State Fault Refusal :=
  if (s.link x).state = .active ∧ (s.link x).silence = true then .next (s.linkFault x .silence).resume else .next s.resume

/-- Where a link goes at the end of its HOLD (R158). -/
def Link.afterHold (l : Link) : Link :=
  if l.holdExit = .start ∨ l.ctrl.autoRestart = true then l.toStart else { l with state := .off, holdTimer := false }

/-- HOLD_END (R158): the hold timer of a link in HOLD reaches 16 µs. -/
def execHoldEnd (x : LinkId) (s : State) : Host.Outcome State Fault Refusal :=
  if (s.link x).state = .hold ∧ (s.link x).holdTimer = true then .next (s.setLink x (s.link x).afterHold).resume
  else .next s.resume

end Sys2Proof.Machine
end

