-- ==== Sys2Proof/Machine/LinkTx.lean ====
section
/-! DEFINITION. The link transmitter (chapters 9 and 10): SEND_FILL, SEND_GRANT, SEND_HEADER_BYTE, SEND_PAYLOAD_BYTE,
EOM_SENT, SEND_ABM and SETTLE_END. Each command is the completion of one symbol (log 9). -/

namespace Sys2Proof.Machine

/-- The EOM of the sending record has begun and is not complete (R171). -/
def Link.eomBegun (l : Link) : Bool := l.sending.any fun sd => sd.progress == .eomBegun

/-- The next symbol is not already decided: no ABM is due and no EOM has begun (R171, log 21). -/
def Link.boundaryFree (l : Link) : Bool := !l.abmDue && !l.eomBegun

/-- A symbol time of the transmitter's work: ACTIVE, settled, at a free boundary (R150). -/
def Link.working (l : Link) : Bool := l.state == .active && l.settle == 0 && l.boundaryFree

/-- A symbol time for a frame symbol: no GRANT is pending (R166, R169). -/
def Link.frameTime (l : Link) : Bool := l.working && l.pendingGrants == 0

/-- The transmitter has a payload byte due that opens a cell, and no credit (R167). -/
def Link.waitsForCredit (l : Link) : Bool :=
  l.sending.any fun sd =>
    match sd.progress with
    | .payload j => j % Config.cellBytes == 0 && l.credit == 0
    | _ => false

/-- The symbol last sent (R150). -/
def State.sent (s : State) (x : LinkId) (sym : Symbol) : State := s.setLink x { s.link x with lastSymbol := some sym }

/-- A FILL of the settle run: the settle count falls by one; reaching 0, it lets the transmitter choose (R150, R154,
R168). -/
def State.settleFill (s : State) (x : LinkId) : State :=
  let s1 := s.setLink x { s.link x with settle := (s.link x).settle - 1, lastSymbol := some .fill }
  if (s1.link x).settle = 0 then s1.transmitterChoose x else s1

/-- A FILL in START, counted up to 8; the eighth, with a FILL seen, takes the link into ACTIVE (R150, R153). -/
def State.startFill (s : State) (x : LinkId) : State :=
  let n := min ((s.link x).fillsSent + 1) 8
  let s1 := s.setLink x { s.link x with fillsSent := n, lastSymbol := some .fill }
  if n = 8 ∧ (s.link x).fillSeen = true then s1.enterActive x else s1

/-- SEND_FILL (R150): in START, in the settle run, while waiting for credit, or with nothing to send. -/
def execSendFill (x : LinkId) (s : State) : Host.Outcome State Fault Refusal :=
  if (s.link x).boundaryFree = true then
    match (s.link x).state with
    | .off => .next s.resume
    | .hold => .next s.resume
    | .start => .next (s.startFill x).resume
    | .active =>
      if 0 < (s.link x).settle then .next (s.settleFill x).resume
      else if (s.link x).pendingGrants = 0 ∧ ((s.link x).sending = none ∨ (s.link x).waitsForCredit = true) then
        .next (s.sent x .fill).resume
      else .next s.resume
  else .next s.resume

/-- SETTLE_END (R154): the last FILL of the settle run is sent, the settle count reaches 0, and the transmitter makes its
first choice. On a count that has reached 0 only the choice is left, which was then made (log 18). -/
def execSettleEnd (x : LinkId) (s : State) : Host.Outcome State Fault Refusal :=
  if (s.link x).state = .active ∧ (s.link x).settle ≤ 1 then
    if (s.link x).settle = 1 then .next (s.settleFill x).resume else .next (s.transmitterChoose x).resume
  else .next s.resume

/-- SEND_GRANT (R166): one pending GRANT is sent ahead of any frame symbol. -/
def execSendGrant (x : LinkId) (s : State) : Host.Outcome State Fault Refusal :=
  if (s.link x).working = true ∧ 0 < (s.link x).pendingGrants then
    .next
      (s.setLink x
        { s.link x with pendingGrants := (s.link x).pendingGrants - 1, lastSymbol := some .grant }).resume
  else .next s.resume

/-- The sending record with its progress, at a symbol time for a frame symbol (R169). -/
def State.frameSymbol (s : State) (x : LinkId) : Option (Sending × Record) :=
  if (s.link x).frameTime = true then
    match (s.link x).sending with
    | none => none
    | some sd => (s.record sd.recId).map fun r => (sd, r)
  else none

/-- SEND_HEADER_BYTE (R169): the next header byte; after byte 6 the payload. -/
def execSendHeaderByte (x : LinkId) (s : State) : Host.Outcome State Fault Refusal :=
  match s.frameSymbol x with
  | some (⟨n, .header i⟩, r) =>
    .next
      (s.setLink x
        { s.link x with
          sending := some { recId := n, progress := if i < 6 then .header (i + 1) else .payload 0 }
          lastSymbol := some (.data (r.headerByte i)) }).resume
  | _ => .next s.resume

/-- SEND_PAYLOAD_BYTE (R167, R169): the next payload byte, with a credit spent on a byte that opens a cell; with no
credit, FILL is sent and the byte stays due. -/
def execSendPayloadByte (x : LinkId) (s : State) : Host.Outcome State Fault Refusal :=
  match s.frameSymbol x with
  | some (⟨n, .payload j⟩, r) =>
    if (s.link x).waitsForCredit = true then .next (s.sent x .fill).resume
    else
      .next
        (s.setLink x
          { s.link x with
            credit := if j % Config.cellBytes = 0 then (s.link x).credit - 1 else (s.link x).credit
            sending := some { recId := n, progress := if j + 1 < r.length then .payload (j + 1) else .eom }
            lastSymbol := some (.data (s.payload r j)) }).resume
  | _ => .next s.resume

/-- The record whose EOM completes: one whose EOM has begun, in any link state (R160), or one whose EOM is next at a
symbol time for a frame symbol. -/
def State.eomRecord (s : State) (x : LinkId) : Option RecId :=
  match (s.link x).sending with
  | some ⟨n, .eomBegun⟩ => some n
  | some ⟨n, .eom⟩ => if (s.link x).frameTime = true then some n else none
  | _ => none

/-- EOM_SENT (R169, R171). The EOM begins: from there a DRAIN or a disable no longer replaces it. It completes: the record
is discarded by head removal, the transmitter names none and chooses again (R168).

DESIGN CHOICE (log 32): the choice is part of this step. A fault of the link that comes together with the completion and is
taken after it finds no record that this EOM sent (R159), but where the choice has named the next record of the link's classes
it finds that one, returns it to the head of its class and raises its resends (R16, R157). -/
def execEomSent (x : LinkId) (m : EomMoment) (s : State) : Host.Outcome State Fault Refusal :=
  match m with
  | .begins =>
    match s.frameSymbol x with
    | some (⟨n, .eom⟩, _) =>
      .next
        (s.setLink x
          { s.link x with sending := some { recId := n, progress := .eomBegun }, lastSymbol := some .eom }).resume
    | _ => .next s.resume
  | .completes =>
    match s.eomRecord x with
    | some n =>
      let s1 := (s.setLink x { s.link x with sending := none, lastSymbol := some .eom }).discard n
      .next (s1.transmitterChoose x).resume
    | none => .next s.resume

/-- SEND_ABM (R171): the ABM due is sent, and its completion clears it; the transmitter, if ACTIVE, chooses. -/
def execSendAbm (x : LinkId) (s : State) : Host.Outcome State Fault Refusal :=
  if (s.link x).abmDue = true then
    .next ((s.setLink x { s.link x with abmDue := false, lastSymbol := some .abm }).transmitterChoose x).resume
  else .next s.resume

/-- Whether the line of link `x` is quiet: OFF or HOLD, with no ABM due and no EOM begun (R150). -/
def State.lineQuiet (s : State) (x : LinkId) : Bool :=
  ((s.link x).state == .off || (s.link x).state == .hold) && (s.link x).boundaryFree

end Sys2Proof.Machine
end

