-- ==== Sys2Proof/Machine/Dispatch.lean ====
section
/-! DEFINITION. The meaning of every command, one arm per constructor of Instr. -/

namespace Sys2Proof.Machine

def exec (i : Instr) (s : State) : Host.Outcome State Fault Refusal :=
  match i with
  | .powerOnReset => Sys2Proof.Machine.execPowerOnReset s
  | .selectFall k => Sys2Proof.Machine.execSelectFall k s
  | .selectRise k => Sys2Proof.Machine.execSelectRise k s
  | .undefinedRequestCode k code early => Sys2Proof.Machine.execUndefinedRequestCode k code early s
  | .nop k early => Sys2Proof.Machine.execNop k early s
  | .post k b early => Sys2Proof.Machine.execPost k b early s
  | .postPayloadByte k b early => Sys2Proof.Machine.execPostPayloadByte k b early s
  | .postTimeout k => Sys2Proof.Machine.execPostTimeout k s
  | .fetch k b early => Sys2Proof.Machine.execFetch k b early s
  | .fetchUq k b early => Sys2Proof.Machine.execFetchUq k b early s
  | .release k early => Sys2Proof.Machine.execRelease k early s
  | .events k early => Sys2Proof.Machine.execEvents k early s
  | .mask k b early => Sys2Proof.Machine.execMask k b early s
  | .managerMaskWrite k b early => Sys2Proof.Machine.execManagerMaskWrite k b early s
  | .query k early => Sys2Proof.Machine.execQuery k early s
  | .claim k early => Sys2Proof.Machine.execClaim k early s
  | .resign k early => Sys2Proof.Machine.execResign k early s
  | .portReset k early => Sys2Proof.Machine.execPortReset k early s
  | .readItem k b early => Sys2Proof.Machine.execReadItem k b early s
  | .writeItem k b early => Sys2Proof.Machine.execWriteItem k b early s
  | .routeWrite k b early => Sys2Proof.Machine.execRouteWrite k b early s
  | .portaddrWrite k b early => Sys2Proof.Machine.execPortaddrWrite k b early s
  | .guaranteeWrite k b early => Sys2Proof.Machine.execGuaranteeWrite k b early s
  | .limitWrite k b early => Sys2Proof.Machine.execLimitWrite k b early s
  | .depthWrite k b early => Sys2Proof.Machine.execDepthWrite k b early s
  | .runlimitWrite k b early => Sys2Proof.Machine.execRunlimitWrite k b early s
  | .posttimeoutWrite k b early => Sys2Proof.Machine.execPosttimeoutWrite k b early s
  | .lowmarkWrite k b early => Sys2Proof.Machine.execLowmarkWrite k b early s
  | .linkEnable k b early => Sys2Proof.Machine.execLinkEnable k b early s
  | .linkDisable k b early => Sys2Proof.Machine.execLinkDisable k b early s
  | .fence k b early => Sys2Proof.Machine.execFence k b early s
  | .unfence k b early => Sys2Proof.Machine.execUnfence k b early s
  | .purge k b early => Sys2Proof.Machine.execPurge k b early s
  | .drain k b early => Sys2Proof.Machine.execDrain k b early s
  | .restart k early => Sys2Proof.Machine.execRestart k early s
  | .sendFill x => Sys2Proof.Machine.execSendFill x s
  | .sendGrant x => Sys2Proof.Machine.execSendGrant x s
  | .sendHeaderByte x => Sys2Proof.Machine.execSendHeaderByte x s
  | .sendPayloadByte x => Sys2Proof.Machine.execSendPayloadByte x s
  | .eomSent x m => Sys2Proof.Machine.execEomSent x m s
  | .sendAbm x => Sys2Proof.Machine.execSendAbm x s
  | .receiveFill x => Sys2Proof.Machine.execReceiveFill x s
  | .receiveGrant x => Sys2Proof.Machine.execReceiveGrant x s
  | .receiveHeaderByte x b => Sys2Proof.Machine.execReceiveHeaderByte x b s
  | .headerStep x b => Sys2Proof.Machine.execHeaderStep x b s
  | .receivePayloadByte x b => Sys2Proof.Machine.execReceivePayloadByte x b s
  | .receiveEom x => Sys2Proof.Machine.execReceiveEom x s
  | .receiveAbm x => Sys2Proof.Machine.execReceiveAbm x s
  | .symbolError x w => Sys2Proof.Machine.execSymbolError x w s
  | .silence x => Sys2Proof.Machine.execSilence x s
  | .settleEnd x => Sys2Proof.Machine.execSettleEnd x s
  | .holdEnd x => Sys2Proof.Machine.execHoldEnd x s
  | .inByteCompletion k b early => Sys2Proof.Machine.execInByteCompletion k b early s

end Sys2Proof.Machine
end

