-- ==== Sys2Proof/Safety.lean ====
section
/-! DEFINITION. What a sound state of the exchange is, in the terms the statements use: where every cell, record and
charge is (chapters 1, 2 and 4), the ranges of the items (chapter 8), the states of ports, snapshots, the role and the
links (chapters 5 to 9); and what a safe step is. -/

namespace Sys2Proof.Safety

open Sys2Proof.Machine

/-! ### Cells and charges -/

/-- The cells on the cell lists of all records in use. -/
def recordCells (s : State) : List CellId :=
  (List.finRange 128).flatMap fun n => ((s.record n).map (·.cells)).getD []

/-- R1: each of the 512 cells is on the free list, in one record in use or on one reserved list, and in one of these
places only. -/
def CellsConserved (s : State) : Prop :=
  (s.free ++ recordCells s ++ (s.link 0).reserved ++ (s.link 1).reserved).Perm allCells

/-- The cells of record `n`, if it is in use with origin `p`. -/
def cellsCharged (s : State) (p : Party) (n : RecId) : Nat :=
  match s.record n with
  | none => 0
  | some r => if r.origin = p then r.cells.length else 0

/-- The length of the reserved list of a link; a host has none. -/
def reservation (s : State) : Party → Nat
  | .host _ => 0
  | .link x => (s.link x).reserved.length

/-- R23: the usage of a source is the count of cells of the records of its origin, and for a link its reserved list. -/
def UsageExact (s : State) : Prop :=
  ∀ p : Party, s.used p = ((List.finRange 128).map (cellsCharged s p)).sum + reservation s p

/-- R23 and R25: G[s] ≤ L[s] ≤ 512 for every source, and the two laws of the shared region. -/
def AccountLaws (s : State) : Prop :=
  (∀ p : Party, s.guar p ≤ s.lim p ∧ s.lim p ≤ Config.cellCount) ∧
    s.sumGuarantee ≤ Config.cellCount ∧ s.sharedUsage ≤ s.sharedCapacity

/-! ### Records -/

/-- The committed records of a target; DROP has no queue. -/
def queueOf (s : State) : Target → List RecId
  | .queue q => (s.qclass q).recs
  | .uq => s.uq.recs
  | .drop => []

/-- The places reserved for a target. -/
def reservedFor (s : State) : Target → Nat
  | .queue q => (s.qclass q).reserved
  | .uq => s.uq.reserved
  | .drop => 0

/-- The target whose queue holds a loan of port `k` (R106). -/
def loanTarget (k : PortId) (l : Loan) : Target :=
  match l.queue with
  | .inbox c => .queue { dest := .host k, cls := c }
  | .uq => .uq

/-- R9, R13, R15, R60, R106: every slot, queue, loan and transmitter names records in use, in the state and with the
origin and target that its place asks for; a loaned or sending record is at the head of its queue. -/
structure ReferencesSound (s : State) : Prop where
  slots : ∀ p n, s.slot p = some n → ∃ r, s.record n = some r ∧ r.origin = p ∧ r.state = .assembling
  queues : ∀ t n, n ∈ queueOf s t → ∃ r, s.record n = some r ∧ r.target = t ∧ r.state ≠ .assembling
  once : ∀ t, (queueOf s t).Nodup
  loans :
    ∀ k l, (s.port k).loan = some l →
      (∃ r, s.record l.recId = some r ∧ r.state = .loaned) ∧ (queueOf s (loanTarget k l)).head? = some l.recId
  loansApart : ∀ k k' l l', (s.port k).loan = some l → (s.port k').loan = some l' → l.recId = l'.recId → k = k'
  sendings :
    ∀ x sd, (s.link x).sending = some sd →
      (∃ r, s.record sd.recId = some r ∧ r.state = .sending) ∧
        ∃ c, (s.qclass { dest := .link x, cls := c }).recs.head? = some sd.recId

/-- R9: every record in use is where its state says: the assembling one in its origin's slot, the others in the queue of
their target; the loaned one is some port's loan and the sending one some transmitter's. -/
structure RecordsPlaced (s : State) : Prop where
  assembling : ∀ n r, s.record n = some r → r.state = .assembling → s.slot r.origin = some n
  committed : ∀ n r, s.record n = some r → r.state ≠ .assembling → n ∈ queueOf s r.target
  loaned : ∀ n r, s.record n = some r → r.state = .loaned → ∃ k l, (s.port k).loan = some l ∧ l.recId = n
  sending : ∀ n r, s.record n = some r → r.state = .sending → ∃ x sd, (s.link x).sending = some sd ∧ sd.recId = n

/-- R101 and R173: a port fills the record of its slot exactly in FILLING; a link receives the record of its slot exactly
with a message open and its header complete. -/
def SlotsOwned (s : State) : Prop :=
  (∀ k, s.slot (.host k) ≠ none ↔ (s.port k).phase = .filling) ∧
    ∀ x, s.slot (.link x) ≠ none ↔ (s.link x).headerDone = true

/-- R6, R7, R16, R47, R100, R174: the ranges of a record's fields and what its target says of them. -/
structure RecordLaws (r : Record) : Prop where
  length : 1 ≤ r.length ∧ r.length ≤ Config.maxLength
  filled : r.filled ≤ r.length
  reason : r.reason ≠ none ↔ r.target = .uq
  cls : ∀ q, r.target = .queue q → q.cls = r.cls
  hops : ∀ x c, r.target = .queue { dest := .link x, cls := c } → r.hops ≠ 0
  dropped : r.target = .drop → r.state = .assembling ∧ ∃ x, r.origin = .link x
  resends : r.resends ≤ 7

/-- R8: the cells of a record: those of its whole length once it is committed or if a host posts it, those of what is
filled while a link receives it. -/
def CellsFit (r : Record) : Prop :=
  (r.state ≠ .assembling → r.filled = r.length) ∧
    r.cells.length =
      match r.origin with
      | .host _ => cellsOf r.length
      | .link _ => cellsOf r.filled

/-- Whether record `n` is assembling for target `t`. -/
def assemblesFor (s : State) (t : Target) (n : RecId) : Bool :=
  match s.record n with
  | none => false
  | some r => r.state == .assembling && r.target == t

/-- R61 and R53: the places reserved for a target are those of the records assembling for it. -/
def ReservationsExact (s : State) : Prop :=
  ∀ t, t ≠ .drop → reservedFor s t = ((List.finRange 128).filter (assemblesFor s t)).length

/-- R61, R62 and R53: no class is beyond its depth limit, and the UQ is not beyond its 8 places. -/
def OccupancyBounded (s : State) : Prop :=
  (∀ q, (s.qclass q).occupancy ≤ (s.qclass q).depth) ∧ s.uq.occupancy ≤ Config.uqCapacity

/-- The sum of the twelve depth limits (R62). -/
def sumDepth (s : State) : Nat := ((List.finRange 12).map fun i => (vget s.classes i).depth).sum

/-- R62: every depth limit is 1 to 16 and the twelve keep the depth budget. -/
def DepthsLegal (s : State) : Prop :=
  (∀ q, 1 ≤ (s.qclass q).depth ∧ (s.qclass q).depth ≤ 16) ∧ sumDepth s ≤ Config.depthBudget

/-- The store as a whole: the parts that together keep one another. -/
structure StoreSound (s : State) : Prop where
  cells : CellsConserved s
  charges : UsageExact s
  accounts : AccountLaws s
  references : ReferencesSound s
  placed : RecordsPlaced s
  slots : SlotsOwned s
  records : ∀ n r, s.record n = some r → RecordLaws r ∧ CellsFit r
  reservations : ReservationsExact s
  occupancy : OccupancyBounded s
  depths : DepthsLegal s

/-! ### Items -/

/-- R42: no two valid route entries hold one address. -/
def RoutesUnique (s : State) : Prop :=
  ∀ i j : Fin 32, (vget s.routes i).valid = true → (vget s.routes j).valid = true →
    (vget s.routes i).address = (vget s.routes j).address → i = j

/-- R138: the ranges of a LINKCTRL item. -/
def CtrlLegal (c : LinkCtrl) : Prop :=
  c.rate ≤ 4 ∧ 1 ≤ c.window ∧ c.window ≤ 16 ∧ 1 ≤ c.resendLimit ∧ c.resendLimit ≤ 7

/-- R42, R62, R70, R138, R139: every item but the accounts is in its range, and every run counter is at most 15. -/
structure ItemsLegal (s : State) : Prop where
  routes : RoutesUnique s
  depths : DepthsLegal s
  runLimits : ∀ i : Fin 6, 1 ≤ vget s.runLimit i ∧ vget s.runLimit i ≤ 15
  runCounts : ∀ i : Fin 6, vget s.runCount i ≤ 15
  ctrls : ∀ x, CtrlLegal (s.link x).ctrl
  lowMark : s.lowMark ≤ 511
  postTimeout : s.postTimeout ≤ 255

/-! ### Ports, the role and snapshots -/

/-- R83, R88, R99, R107, R123: what a port holds of a transaction it holds only in that transaction. -/
structure PortLaws (p : Port) : Prop where
  idle : p.selLow = false → p.tx = .idle
  phase : p.phase ≠ .noPost → p.tx = .running .post
  timer : p.timer ≠ none → p.tx = .running .post
  readout : p.readout ≠ none → p.tx = .running .fetch
  snapshot : p.snapshot ≠ none → p.tx = .running .events

/-- R90, R121, R115: the manager's port is not fenced, a vacant role has an empty mask, and only the manager's port
holds a loan from the UQ. -/
structure RoleLaws (s : State) : Prop where
  unfenced : ∀ k, s.manager = some k → (s.port k).fenced = false
  vacantMask : s.manager = none → s.mgrMask = 0
  uqLoan : ∀ k l, (s.port k).loan = some l → l.queue = .uq → s.manager = some k

/-- Every kind of `a` is in `b`. -/
def kindsIn (a b : Byte) : Prop := a &&& ~~~b = 0

/-- R123 to R125: the kinds of an open snapshot are still set, its late raises are kinds of it, and its manager part is
the role holder's. -/
def SnapshotLaws (s : State) : Prop :=
  ∀ k sn, (s.port k).snapshot = some sn →
    kindsIn sn.host (s.port k).hostSet ∧ kindsIn sn.hostLate sn.host ∧
      ∀ part late, sn.mgr = some (part, late) →
        s.manager = some k ∧ kindsIn part s.mgrSet ∧ kindsIn late part

/-- The ports, the role and the snapshots as a whole. -/
structure PortsSound (s : State) : Prop where
  ports : ∀ k, PortLaws (s.port k)
  role : RoleLaws s
  snapshots : SnapshotLaws s

/-! ### Links -/

/-- R149, R152, R155, R156, R158, R160, R173: what a link holds in each state. -/
structure LinkLaws (l : Link) : Prop where
  ctrl : CtrlLegal l.ctrl
  disabled : l.ctrl.enable = false → l.state = .off
  silence : l.silence = true ↔ l.state = .active
  holdTimer : l.holdTimer = true ↔ l.state = .hold
  credit : l.credit ≤ Config.maxCredit
  counts : l.fillsSent ≤ 8 ∧ l.settle ≤ 8 ∧ l.opRate ≤ 4
  reserved : l.reserved.length ≤ 16
  inactive :
    l.state ≠ .active →
      l.credit = 0 ∧ l.reserved = [] ∧ l.pendingGrants = 0 ∧ l.settle = 0 ∧ l.isOpen = false
  header : (l.isOpen = false → l.hdr = []) ∧ (l.isOpen = true → 1 ≤ l.hdr.length ∧ l.hdr.length ≤ 6)
  sending : ∀ sd, l.sending = some sd → l.state = .active ∨ sd.progress = .eomBegun

/-! ### Frames -/

/-- Nothing differs but port `k`. -/
def OnlyPort (k : PortId) (s t : State) : Prop := t = s.setPort k (t.port k)

/-- Nothing differs but link `x`. -/
def OnlyLink (x : LinkId) (s t : State) : Prop := t = s.setLink x (t.link x)

/-- R4: between `s` and `t`, whose free list is what allocations of one cell each have left, the free cell count has fallen
below a low mark that is not 0. -/
abbrev LowMarkPassed (s t : State) : Prop :=
  s.lowMark ≠ 0 ∧ s.lowMark ≤ s.free.length ∧ t.free.length < s.lowMark

/-- What an event at the accounts can do (R3, R4, R30, R31, R38, R39, R123): the links take cells one by one from the front of
the free list, each to the tail of its reserved list, one charge and one pending GRANT a cell; a watch that stands is
satisfied, with ROOM raised; CELLS LOW is raised, and noted by an open snapshot, exactly when the low mark is passed; and the
model may note what a waiting POST comes between (logs 29, 30). Nothing else differs. -/
structure OnlyAccounts (s t : State) : Prop where
  rest :
    t =
      { s with
        free := t.free, usage := t.usage, ports := t.ports, links := t.links, mgrSet := t.mgrSet, ties := t.ties,
        owed := t.owed, ahead := t.ahead }
  hosts : ∀ k, t.used (.host k) = s.used (.host k)
  cells :
    ∃ taken : List (LinkId × CellId),
      s.free = taken.map Prod.snd ++ t.free ∧
        ∀ x,
          let cs := (taken.filter fun c => c.1 = x).map Prod.snd
          t.link x =
              { s.link x with
                reserved := (s.link x).reserved ++ cs
                pendingGrants := (s.link x).pendingGrants + cs.length } ∧
            t.used (.link x) = s.used (.link x) + cs.length
  ports :
    ∀ k, ∃ p,
      (p = s.port k ∨ (s.port k).watch ≠ .absent ∧ p = { (s.port k).raise .room with watch := .absent }) ∧
        t.port k = if LowMarkPassed s t then p.noteMgr .cellsLow else p
  manager : t.mgrSet = if LowMarkPassed s t then s.mgrSet ||| MgrEvent.cellsLow.bit else s.mgrSet

/-- What an event that ends the records `cs` gives back, with a reserved list beside them if `more`: cells, if one of them has
one, and a fall of the class of each of the records `fs` (R19, R20, R38). `s` is the state that the event found. -/
def Returns (s : State) (cs fs : List RecId) (more : Bool) (back : Returned) : Prop :=
  (back.cells = true ↔ more = true ∨ ∃ n ∈ cs, ∃ r, s.record n = some r ∧ r.cells ≠ []) ∧
    ∀ q, q ∈ back.falls ↔ ∃ n ∈ fs, ∃ r, s.record n = some r ∧ r.target = .queue q

/-- R30, R31: no link meets the three conditions of R30, but those whose reserve ones are left to be made after the claim,
discard or write that waits next (R28); and the model leaves reserve ones only while such a command waits next, and notes a full
class only while a POST does (logs 29 and 30). -/
structure ReservesDone (s : State) : Prop where
  done :
    ∀ x, (s.link x).state = .active → (s.link x).reserved.length < (s.link x).ctrl.window →
      s.grants (.link x) 1 = true → x ∈ s.owed
  waits : (s.owed ≠ [] → s.comesBetween = true) ∧ (s.ahead ≠ none → s.waitingPost ≠ none)

/-! ### Transactions at a taken byte -/

/-- What a request that is taken answers: the state it leaves, with `code` formed as the next out byte of port `k`; and then,
as after every command, the reserve ones left at earlier events go on (R28). -/
def answered (k : PortId) (early : Bool) (code : Byte) (t : State) : Host.Outcome State Fault Refusal :=
  .next (t.setPort k ((t.port k).shift early code)).resume

/-- A WRITE ITEM of item `id`, index `index`, with the value bytes v0, v1 and v2, awaits in byte 6 on port `k` (R136). -/
def WritesItem (s : State) (k : PortId) (id index v0 v1 v2 : Byte) : Prop :=
  (s.port k).tx = .running .writeItem ∧ (s.port k).inCount = 6 ∧ (s.port k).inBytes = [id, index, v0, v1, v2]

/-- Port `k` is unfenced and holds the manager role. -/
def Manages (s : State) (k : PortId) : Prop := (s.port k).fenced = false ∧ s.manager = some k

/-- How many indices an item id has; an id outside the table of R134 has none. -/
def itemIndices (id : Byte) : Nat :=
  if id = 0x01 then 32
  else if id = 0x02 ∨ id = 0x13 then 4
  else if id = 0x03 ∨ id = 0x04 ∨ id = 0x06 ∨ id = 0x10 then 6
  else if id = 0x05 then 12
  else if id = 0x07 ∨ id = 0x11 then 2
  else if id = 0x08 ∨ id = 0x09 ∨ id = 0x12 then 1
  else if id = 0x14 then 13
  else 0

/-- A party as a byte (0.7). -/
def partyByte (p : Party) : Byte := BitVec.ofNat 8 p.num.val

/-- A queue class as a byte (0.7). -/
def classByte (q : QueueId) : Byte := BitVec.ofNat 8 q.num.val

/-- The administrative requests with an operand (8.3). -/
def isAdmin (r : Request) : Bool := r == .fence || r == .unfence || r == .purge || r == .drain

/-- The in byte at which a request is taken, or last taken (5.3). -/
def lastTaken : Request → Nat
  | .post => 5
  | .fetch => 1
  | .mask => 2
  | .readItem => 2
  | .writeItem => 6
  | .fence => 1
  | .unfence => 1
  | .purge => 1
  | .drain => 1
  | _ => 0

/-- The highest operand in range of an administrative request (R141). -/
def adminBound : Request → Nat
  | .purge => 4
  | .drain => 1
  | _ => 3

/-! ### Steps -/

/-- The command whose step the completion of in byte `b` on port `k` is, if it is not IN_BYTE_COMPLETION's own (log 4). -/
def commandOf (k : PortId) (b : Byte) (early : Bool) : ByteStep → Option Instr
  | .ignored => none
  | .plain => none
  | .undefinedCode => some (.undefinedRequestCode k b early)
  | .nop => some (.nop k early)
  | .post => some (.post k b early)
  | .payload => some (.postPayloadByte k b early)
  | .fetch => some (.fetch k b early)
  | .fetchUq => some (.fetchUq k b early)
  | .release => some (.release k early)
  | .events => some (.events k early)
  | .mask => some (.mask k b early)
  | .managerMask => some (.managerMaskWrite k b early)
  | .query => some (.query k early)
  | .claim => some (.claim k early)
  | .resign => some (.resign k early)
  | .portReset => some (.portReset k early)
  | .readItem => some (.readItem k b early)
  | .writeItem => some (.writeItem k b early)
  | .routeWrite => some (.routeWrite k b early)
  | .portaddrWrite => some (.portaddrWrite k b early)
  | .guaranteeWrite => some (.guaranteeWrite k b early)
  | .limitWrite => some (.limitWrite k b early)
  | .depthWrite => some (.depthWrite k b early)
  | .runlimitWrite => some (.runlimitWrite k b early)
  | .posttimeoutWrite => some (.posttimeoutWrite k b early)
  | .lowmarkWrite => some (.lowmarkWrite k b early)
  | .linkEnable => some (.linkEnable k b early)
  | .linkDisable => some (.linkDisable k b early)
  | .fence => some (.fence k b early)
  | .unfence => some (.unfence k b early)
  | .purge => some (.purge k b early)
  | .drain => some (.drain k b early)
  | .restart => some (.restart k early)

/-- The exchange as a whole. -/
structure Sound (s : State) : Prop where
  store : StoreSound s
  items : ItemsLegal s
  ports : PortsSound s
  links : ∀ x, LinkLaws (s.link x)
  abm : ∀ x, (s.link x).abmDue = true → (s.link x).sending = none
  memory : s.mem.wf = true

/-- The state after a next outcome, if it is one. -/
def nextOf (o : Host.Outcome State Fault Refusal) : Option State :=
  match o with
  | .next t => some t
  | .fault _ => none
  | .refused _ => none

/-- A safe step: the exchange goes on. -/
def StepSafe (s : State) : Prop := ∃ t, step s = .next t

end Sys2Proof.Safety
end

