-- ==== Sys2Proof/WellFormed.lean ====
section
/-! DEFINITION. Which commands are well formed: the operands that a row of the table fixes have the value it fixes.
Ports and links are in range by their types. -/

namespace Sys2Proof

/-- A command whose operands are those its row speaks of: an undefined request code is undefined (R87), a symbol error
is no valid symbol (R148), and the flags of FETCH and FETCH_UQ have the UQ flag that tells the two rows apart (R107,
R115). -/
def Instr.wellFormed : Instr → Bool
  | .undefinedRequestCode _ code _ => (decodeRequest code).isNone
  | .symbolError _ w => (decodeSymbol w).isNone
  | .fetch _ b _ => !uqFlag b
  | .fetchUq _ b _ => uqFlag b
  | .powerOnReset => true
  | .selectFall _ => true
  | .selectRise _ => true
  | .nop _ _ => true
  | .post _ _ _ => true
  | .postPayloadByte _ _ _ => true
  | .postTimeout _ => true
  | .release _ _ => true
  | .events _ _ => true
  | .mask _ _ _ => true
  | .managerMaskWrite _ _ _ => true
  | .query _ _ => true
  | .claim _ _ => true
  | .resign _ _ => true
  | .portReset _ _ => true
  | .readItem _ _ _ => true
  | .writeItem _ _ _ => true
  | .routeWrite _ _ _ => true
  | .portaddrWrite _ _ _ => true
  | .guaranteeWrite _ _ _ => true
  | .limitWrite _ _ _ => true
  | .depthWrite _ _ _ => true
  | .runlimitWrite _ _ _ => true
  | .posttimeoutWrite _ _ _ => true
  | .lowmarkWrite _ _ _ => true
  | .linkEnable _ _ _ => true
  | .linkDisable _ _ _ => true
  | .fence _ _ _ => true
  | .unfence _ _ _ => true
  | .purge _ _ _ => true
  | .drain _ _ _ => true
  | .restart _ _ => true
  | .sendFill _ => true
  | .sendGrant _ => true
  | .sendHeaderByte _ => true
  | .sendPayloadByte _ => true
  | .eomSent _ _ => true
  | .sendAbm _ => true
  | .receiveFill _ => true
  | .receiveGrant _ => true
  | .receiveHeaderByte _ _ => true
  | .headerStep _ _ => true
  | .receivePayloadByte _ _ => true
  | .receiveEom _ => true
  | .receiveAbm _ => true
  | .silence _ => true
  | .settleEnd _ => true
  | .holdEnd _ => true
  | .inByteCompletion _ _ _ => true

end Sys2Proof
end

