-- ==== Sys2Proof/Certificates/Slice0/Obligations.lean ====
section
/-! DEFINITION. The statements for the provers. Each docstring names the rules of spec/ a statement rests on. A statement of
what a command does ends in the next state, written out, so it says where the command completes, what it changes and that
it changes nothing else. The `resume` that every such next state ends with is what R28 lets stand over from earlier commands:
the reserve ones that a claim, a discard or a guarantee or limit write came between go on. With none left over it is the state
itself; `ReservationsSettle` says all that it can do. -/

open Sys2Proof Sys2Proof.Machine Sys2Proof.Safety

/-! ### The machine -/

/-- A step runs the command at the front of the queue on the state with the queue's rest; with an empty queue the exchange
idles (log 6). -/
def Obligations.StepRunsFront : Prop :=
  (∀ (c : Instr) (rest : List Instr) (s : State),
      s.pending = c :: rest → step s = exec c { s with pending := rest }) ∧
    ∀ s : State, s.pending = [] → step s = .next s

/-- R21, R40: the store and the accounts after power-on reset. -/
def Obligations.ResetStoreAndAccounts : Prop :=
  let s := State.reset
  s.free = List.finRange 512 ∧ s.free.length = 512 ∧ (∀ x, (s.link x).reserved = []) ∧ (∀ n, s.record n = none) ∧
    (∀ p, s.slot p = none) ∧ s.itemValue 0x12 0 = some [0x02, 0x00, 0x00, 0x80] ∧
    (∀ k, (s.querySnapshot k).drop 10 = [0x02, 0x00]) ∧
    (∀ p, s.guar p = 32 ∧ s.lim p = 256 ∧ s.used p = 0 ∧ s.headroom p = 256) ∧ s.sumGuarantee = 192 ∧
    s.sharedCapacity = 320 ∧ s.sharedUsage = 0 ∧ (∀ k, (s.port k).watch = .absent) ∧
    ∀ k, (s.querySnapshot k).take 4 = [0x01, 0x00, 0x00, 0x00]

/-- R43, R58, R76: the route table, the queue classes and the UQ after power-on reset. -/
def Obligations.ResetRouterAndQueues : Prop :=
  let s := State.reset
  (∀ i : Fin 32,
      vget s.routes i =
        if h : i.val < 4 then
          { valid := true, address := BitVec.ofNat 8 (0xF0 + i.val), primary := .host ⟨i.val, h⟩, alternate := none }
        else { valid := false, address := 0x00, primary := .host 0, alternate := none }) ∧
    (∀ q, (s.qclass q).recs = [] ∧ (s.qclass q).reserved = 0 ∧ (s.qclass q).occupancy = 0 ∧ (s.qclass q).depth = 8) ∧
    sumDepth s = 96 ∧ (∀ p : Party, vget s.runLimit p.num = 4 ∧ s.run p = 0) ∧ s.uq.recs = [] ∧ s.uq.reserved = 0 ∧
    (∀ i : Fin 13, s.itemValue 0x14 (BitVec.ofNat 8 i.val) = some [0, 0, 0, 0]) ∧
    (∀ k, (s.summary k).getLsbD 6 = false ∧ (s.summary k).getLsbD 5 = false) ∧
    ∀ k, ((s.querySnapshot k).drop 4).take 2 = [0, 0]

/-- R97, R128; R149, R163, R179: the host ports, the event sets, the role and the links after power-on reset. -/
def Obligations.ResetPortsAndLinks : Prop :=
  let s := State.reset
  (∀ k : PortId,
      (s.port k).tx = .idle ∧ (s.port k).outFormed = none ∧ s.attention k = false ∧ (s.port k).timer = none ∧
        (s.port k).loan = none ∧ (s.port k).watch = .absent ∧ (s.port k).fenced = false ∧
        (s.port k).portAddr = BitVec.ofNat 8 (0xF0 + k.val) ∧ s.manager ≠ some k ∧ s.summary k = 0x00 ∧
        (s.port k).hostSet = 0 ∧ (s.port k).hostMask = 0 ∧ (s.port k).snapshot = none ∧ (s.port k).phase = .noPost ∧
        (s.port k).readout = none ∧ s.slot (.host k) = none ∧
        s.querySnapshot k = [0x01, 0x00, 0x00, 0x00, 0x00, 0x00, 0xFF, 0xFF, 0x00, 0x00, 0x02, 0x00] ∧
        (s.takeSnapshot k).host = 0 ∧ (s.takeSnapshot k).mgr = none ∧ (s.takeSnapshot k).mgrByte = 0) ∧
    s.postTimeout = 20 ∧ s.mgrSet = 0 ∧ s.mgrMask = 0 ∧
    ∀ x : LinkId,
      let l := s.link x
      l.ctrl = { enable := false, autoRestart := false, rate := 0, window := 8, resendLimit := 3 } ∧ l.state = .off ∧
        l.opRate = 0 ∧ l.fillsSent = 0 ∧ l.fillSeen = false ∧ l.settle = 0 ∧ l.silence = false ∧ l.holdTimer = false ∧
        l.holdExit = .autoRestart ∧ l.credit = 0 ∧ l.pendingGrants = 0 ∧ l.abmDue = false ∧ l.isOpen = false ∧
        l.lastFault = .noFault ∧ l.reserved = [] ∧ l.sending = none ∧ l.hdr = [] ∧ s.slot (.link x) = none ∧
        s.lineQuiet x = true ∧ s.itemValue 0x07 (BitVec.ofNat 8 x.val) = some [0x00, 0x00, 0x08, 0x03] ∧
        s.itemValue 0x11 (BitVec.ofNat 8 x.val) = some [0, 0, 0, 0]

/-- Chapter 0.8: the reset pin returns every block to its power-on state. The bytes of the cells (R1), the level of the
select pins (R83) and the model's own queue and counter stand: that is the model's choice (log 2, log 20). -/
def Obligations.PowerOnReset : Prop :=
  ∀ s : State,
    ∃ t, exec .powerOnReset s = .next t ∧
      t = { State.reset with mem := s.mem, ports := t.ports, ties := s.ties, pending := s.pending } ∧
        ∀ k, t.port k = { State.reset.port k with selLow := (s.port k).selLow }

/-! ### Host ports -/

/-- R80, R82, R83, R122, 11.3: a fall of select opens a transaction: the port is OPEN with no in byte counted, and out
byte 0 is the summary byte of this moment; nothing else in the exchange changes. The six indications of the summary byte
and its two zero bits; when the attention line is asserted. When reserve ones left over go on (`resume`) is the model's
choice (log 29). -/
def Obligations.SelectFallOpens : Prop :=
  ∀ (k : PortId) (s : State),
    ((s.port k).selLow = false →
        exec (.selectFall k) s =
          .next
            (s.setPort k
              { s.port k with
                selLow := true, tx := .opened, inCount := 0, inBytes := [], outFormed := some (s.summary k),
                outShifted := none, spoilt := [], replyRest := [], readout := none, autoRelease := false,
                phase := .noPost, timer := none, snapshot := none }).resume) ∧
      (s.summary k).getLsbD 7 = s.attention k ∧
      ((s.summary k).getLsbD 6 = true ↔ (s.qclass { dest := .host k, cls := .express }).recs ≠ []) ∧
      ((s.summary k).getLsbD 5 = true ↔ (s.qclass { dest := .host k, cls := .bulk }).recs ≠ []) ∧
      ((s.summary k).getLsbD 4 = true ↔ (s.port k).loan ≠ none) ∧ (s.summary k).getLsbD 3 = (s.port k).fenced ∧
      ((s.summary k).getLsbD 2 = true ↔ s.manager = some k) ∧ (s.summary k).getLsbD 1 = false ∧
      (s.summary k).getLsbD 0 = false ∧
      (s.attention k = true ↔
        (s.port k).hostSet &&& (s.port k).hostMask ≠ 0 ∨ s.manager = some k ∧ s.mgrSet &&& s.mgrMask ≠ 0)

/-- R83, R85, R86, R10, R103: a rise of select returns the port to IDLE with HPk_DO at high impedance and its timer
stopped. In a transaction that is not a POST in FILLING, a FETCH or an EVENTS there is no closing action: nothing else
changes. The closing action of a POST in FILLING is the commit of its record when filled equals length, and otherwise its
discard with POST ABORTED raised on the port; the port then goes to IDLE. When reserve ones left over go on (`resume`) is
the model's choice (log 29). -/
def Obligations.SelectRiseCloses : Prop :=
  (∀ (k : PortId) (s : State), (s.port k).selLow = true →
      ¬((s.port k).tx = .running .post ∧ (s.port k).phase = .filling) → (s.port k).tx ≠ .running .fetch →
      (s.port k).tx ≠ .running .events →
      exec (.selectRise k) s =
        .next
          (s.setPort k
            { s.port k with
              selLow := false, tx := .idle, inCount := 0, inBytes := [], outFormed := none, outShifted := none,
              spoilt := [], replyRest := [], readout := none, autoRelease := false, phase := .noPost, timer := none,
              snapshot := none }).resume) ∧
    (∀ p : Port,
      p.closeTx =
        { p with
          selLow := false, tx := .idle, inCount := 0, inBytes := [], outFormed := none, outShifted := none,
          spoilt := [], replyRest := [], readout := none, autoRelease := false, phase := .noPost, timer := none,
          snapshot := none }) ∧
    ∀ (k : PortId) (n : RecId) (r : Record) (s : State), (s.port k).selLow = true → (s.port k).tx = .running .post →
      (s.port k).phase = .filling → s.slot (.host k) = some n → s.record n = some r →
      let t := if r.filled = r.length then s.commit n else (s.discard n).raiseHost k .postAborted
      exec (.selectRise k) s = .next (t.setPort k (t.port k).closeTx).resume

/-- R12, R67: a commit empties the origin's slot, makes the record QUEUED at the tail of its target, turns the place reserved
for it into a committed entry, and raises ARRIVED on the host of an inbox class or UNDELIVERABLE for the UQ. A commit to a
link class raises nothing and lets that link's transmitter choose. The occupancy of the target and all else stand. -/
def Obligations.CommitEffect : Prop :=
  ∀ (n : RecId) (r : Record) (s : State), s.record n = some r →
    let queued : State := (s.setSlot r.origin none).setRecord n (some { r with state := .queued })
    (∀ (k : PortId) (c : MsgClass), r.target = .queue { dest := .host k, cls := c } →
        let q : QueueId := { dest := .host k, cls := c }
        s.commit n =
          (queued.setClass q
            { s.qclass q with recs := (s.qclass q).recs ++ [n], reserved := (s.qclass q).reserved - 1 }).raiseHost k
            .arrived) ∧
      (∀ (x : LinkId) (c : MsgClass), r.target = .queue { dest := .link x, cls := c } →
        let q : QueueId := { dest := .link x, cls := c }
        s.commit n =
          (queued.setClass q
            { s.qclass q with
              recs := (s.qclass q).recs ++ [n], reserved := (s.qclass q).reserved - 1 }).transmitterChoose x) ∧
      (r.target = .uq →
        s.commit n =
          (queued.setUq { recs := s.uq.recs ++ [n], reserved := s.uq.reserved - 1 }).raiseMgr .undeliverable) ∧
      (1 ≤ reservedFor s r.target →
        (queueOf (s.commit n) r.target).length + reservedFor (s.commit n) r.target =
          (queueOf s r.target).length + reservedFor s r.target)

/-- R19, R20, R38, R39: the discard of a record in use. Its place, the references to it, its cells in list order to the tail
of the free list, the usage of its origin and the record itself are returned, and then passed on. What passing on does: each
DEPTH watch of a class that fell is satisfied, with ROOM raised, if the class then has room, and stays otherwise; the model
notes the class that was full for a POST waiting next (log 30); and, if cells came back, the event at the accounts for the
CELLS watches and both links' reservations follows (see `ReservationsSettle`). -/
def Obligations.DiscardEffect : Prop :=
  (∀ (n : RecId) (r : Record) (s : State), s.record n = some r →
      let u := s.discardOne n
      u.free = s.free ++ r.cells ∧ u.record n = none ∧ (∀ m, m ≠ n → u.record m = s.record m) ∧
          u.used r.origin = s.used r.origin - r.cells.length ∧ (∀ p, p ≠ r.origin → u.used p = s.used p) ∧
          (r.state = .assembling →
            u.slot r.origin = none ∧ (∀ p, p ≠ r.origin → u.slot p = s.slot p) ∧
              (∀ t, t ≠ r.target → reservedFor u t = reservedFor s t) ∧
              reservedFor u r.target = reservedFor s r.target - 1 ∧ ∀ t, queueOf u t = queueOf s t) ∧
          (r.state ≠ .assembling →
            (∀ p, u.slot p = s.slot p) ∧ (∀ t, reservedFor u t = reservedFor s t) ∧
              (∀ t, t ≠ r.target → queueOf u t = queueOf s t) ∧
              queueOf u r.target = (queueOf s r.target).erase n) ∧
          (∀ q, (u.qclass q).depth = (s.qclass q).depth) ∧
          (∀ k,
            u.port k =
              if (s.port k).loan.map (·.recId) = some n then { s.port k with loan := none, readout := none }
              else s.port k) ∧
          (∀ x,
            u.link x =
              if (s.link x).sending.map (·.recId) = some n then { s.link x with sending := none } else s.link x) ∧
          u =
            { s with
              free := u.free, records := u.records, usage := u.usage, slots := u.slots, classes := u.classes, uq := u.uq,
              ports := u.ports, links := u.links } ∧
          s.discard n =
            u.passOn s
              { cells := !r.cells.isEmpty
                falls :=
                  match r.target with
                  | .queue q => [q]
                  | .uq => []
                  | .drop => [] }) ∧
    ∀ (s before : State) (back : Returned),
      ∃ v,
        (∀ k,
          v.port k =
            match (s.port k).watch with
            | .depth q =>
              if q ∈ back.falls ∧ (s.qclass q).recs.length + (s.qclass q).reserved < (s.qclass q).depth then
                { (s.port k).raise .room with watch := .absent }
              else s.port k
            | .cells _ => s.port k
            | .absent => s.port k) ∧
          v.ahead =
            (match before.waitingFull with
              | none => s.ahead
              | some q => if q ∈ back.falls then some q else s.ahead) ∧
          v = { s with ports := v.ports, ahead := v.ahead } ∧
          s.passOn before back = if back.cells then v.accountsEvent [0, 1] true else v

/-- R111: with MESSAGE and the auto-release flag set, the rise of select discards the loaned record when the loan still
names the readout record and every payload out byte, 10 to 9 + length, was shifted out in full; otherwise the loan and the
record stand. A byte is shifted out in full when its in byte has completed and no 0xFF was put in its place (R81). When
reserve ones left over go on (`resume`) is the model's choice (log 29). -/
def Obligations.SelectRiseAutoRelease : Prop :=
  ∀ (k : PortId) (s : State), (s.port k).selLow = true → (s.port k).tx = .running .fetch →
    (∀ (l : Loan) (r : Record), (s.port k).loan = some l → (s.port k).readout = some l.recId →
      s.record l.recId = some r →
      let full : Prop := ∀ j, j < r.length → 10 + j < (s.port k).inCount ∧ 10 + j ∉ (s.port k).spoilt
      ((s.port k).autoRelease = true ∧ full →
          exec (.selectRise k) s =
            .next ((s.discard l.recId).setPort k ((s.discard l.recId).port k).closeTx).resume) ∧
        (¬((s.port k).autoRelease = true ∧ full) →
          exec (.selectRise k) s = .next (s.setPort k (s.port k).closeTx).resume)) ∧
      ((s.port k).readout = none ∨ (s.port k).loan = none ∨
            (∃ (l : Loan) (n : RecId), (s.port k).loan = some l ∧ (s.port k).readout = some n ∧ l.recId ≠ n) →
        exec (.selectRise k) s = .next (s.setPort k (s.port k).closeTx).resume)

/-- R124: at the rise of select an EVENTS transaction whose out bytes 1 and 2 were both shifted out in full clears from
the host set the host part less its late raises and, if the manager part is present, from the manager set the manager part
less its late raises. Otherwise it clears nothing. The snapshot is dropped. When reserve ones left over go on (`resume`)
is the model's choice (log 29). -/
def Obligations.SelectRiseClearsEvents : Prop :=
  ∀ (k : PortId) (sn : Snapshot) (s : State), (s.port k).selLow = true → (s.port k).tx = .running .events →
    (s.port k).snapshot = some sn →
    let full : Prop := 2 < (s.port k).inCount ∧ 1 ∉ (s.port k).spoilt ∧ 2 ∉ (s.port k).spoilt
    ∃ t : State, exec (.selectRise k) s = .next t.resume ∧ (∀ j, j ≠ k → t.port j = s.port j) ∧
      t.port k = { (s.port k).closeTx with hostSet := (t.port k).hostSet } ∧
      (full →
        (t.port k).hostSet = (s.port k).hostSet &&& ~~~(sn.host &&& ~~~sn.hostLate) ∧
          t.mgrSet =
            match sn.mgr with
            | none => s.mgrSet
            | some (part, late) => s.mgrSet &&& ~~~(part &&& ~~~late)) ∧
      (¬full → (t.port k).hostSet = (s.port k).hostSet ∧ t.mgrSet = s.mgrSet) ∧
      t = { s with ports := t.ports, mgrSet := t.mgrSet }

/-- R87, R93: a request code that the table of 5.3 does not have forms UNKNOWN (0x12), raises PROTOCOL and ends the
transaction, on a fenced port too; a NOP changes nothing but its transaction, and the bytes after it are ignored and
answered 0x00. When reserve ones left over go on (`resume`) is the model's choice (log 29). -/
def Obligations.UndefinedCodeAndNop : Prop :=
  ∀ (k : PortId) (code : Byte) (early : Bool) (s : State),
    ((s.port k).tx = .opened →
        code ∉
          [0x00, 0x10, 0x20, 0x21, 0x30, 0x31, 0x40, 0x50, 0x51, 0x52, 0x60, 0x61, 0x70, 0x71, 0x72, 0x73, 0x7F] →
        exec (.undefinedRequestCode k code early) s =
          .next
            (s.setPort k
              (({ s.port k with
                    hostSet := (s.port k).hostSet ||| 0x80, tx := .ended, timer := none, snapshot := none,
                    readout := none, autoRelease := false, phase := .noPost, replyRest := [] } : Port).shift
                early 0x12)).resume) ∧
      ((s.port k).tx = .opened →
        exec (.nop k early) s =
          .next (s.setPort k (({ s.port k with tx := .running .nop } : Port).shift early 0x00)).resume) ∧
      ((s.port k).tx = .running .nop → (s.port k).replyRest = [] →
        exec (.inByteCompletion k code early) s = .next (s.setPort k ((s.port k).shift early 0x00)).resume)

/-- R89: the expiry of a running post timer ends the transaction. In FILLING the record is discarded and POST ABORTED is
raised; in HEADER and REFUSED nothing else happens. A stopped timer does not expire (log 3). When reserve ones left over
go on (`resume`) is the model's choice (log 29). -/
def Obligations.PostTimeoutEnds : Prop :=
  (∀ p : Port,
    p.endTx =
      { p with
        tx := .ended, timer := none, snapshot := none, readout := none, autoRelease := false, phase := .noPost,
        replyRest := [] }) ∧
  ∀ (k : PortId) (s : State),
    ((s.port k).timer ≠ none → (s.port k).phase ≠ .filling →
        exec (.postTimeout k) s =
          .next
            (s.setPort k
              { s.port k with
                tx := .ended, timer := none, snapshot := none, readout := none, autoRelease := false, phase := .noPost,
                replyRest := [] }).resume) ∧
      (∀ n, (s.port k).timer ≠ none → (s.port k).phase = .filling → s.slot (.host k) = some n →
        let t := (s.discard n).raiseHost k .postAborted
        exec (.postTimeout k) s = .next (t.setPort k (t.port k).endTx).resume) ∧
      ((s.port k).timer = none → exec (.postTimeout k) s = .next s.resume)

/-- R95, 11.6: QUERY forms out bytes 1 to 12 from one snapshot of the moment at in byte 0: headroom and usage of the
port's source, the committed counts of its classes, its loan's queue id, the manager's port, the states of the links by
their codes of 11.5 and the free cell count. It changes nothing but its transaction; each later in byte forms the next
byte of the snapshot, and 0x00 after the last. When reserve ones left over go on (`resume`) is the model's choice (log
29). -/
def Obligations.QueryReplies : Prop :=
  ∀ (k : PortId) (early : Bool) (s : State),
    let state (x : LinkId) : Byte :=
      match (s.link x).state with
      | .off => 0x00
      | .start => 0x01
      | .active => 0x02
      | .hold => 0x03
    ((s.port k).tx = .opened →
        exec (.query k early) s =
          .next
            (s.setPort k
              (({ s.port k with
                    tx := .running .query
                    replyRest :=
                      [loByte (s.headroom (.host k)), hiByte (s.used (.host k)), loByte (s.used (.host k)),
                        countByte (s.qclass { dest := .host k, cls := .express }).recs.length,
                        countByte (s.qclass { dest := .host k, cls := .bulk }).recs.length,
                        (match (s.port k).loan with
                          | none => 0xFF
                          | some l =>
                            match l.queue with
                            | .inbox .express => BitVec.ofNat 8 (2 * k.val)
                            | .inbox .bulk => BitVec.ofNat 8 (2 * k.val + 1)
                            | .uq => 12),
                        (match s.manager with
                          | none => 0xFF
                          | some m => BitVec.ofNat 8 m.val),
                        state 0, state 1, hiByte s.free.length, loByte s.free.length] } :
                  Port).shift
                early (hiByte (s.headroom (.host k))))).resume) ∧
      (∀ (b out : Byte) (rest : List Byte), (s.port k).tx = .running .query → (s.port k).replyRest = out :: rest →
        exec (.inByteCompletion k b early) s =
          .next (s.setPort k (({ s.port k with replyRest := rest } : Port).shift early out)).resume) ∧
      ∀ b : Byte, (s.port k).tx = .running .query → (s.port k).replyRest = [] →
        exec (.inByteCompletion k b early) s = .next (s.setPort k ((s.port k).shift early 0x00)).resume

/-- R94: PORT RESET acts on its own port: the loan is cleared without removal, its record QUEUED again; the watch is
absent, the host set and mask empty; the role is resigned if the port holds it, with the manager mask cleared and the
manager set kept. DONE is formed. The fence flag, the port address and all else stand. When reserve ones left over go on
(`resume`) is the model's choice (log 29). -/
def Obligations.PortResetClears : Prop :=
  ∀ (k : PortId) (early : Bool) (s : State), (s.port k).tx = .opened →
    ∃ t : State, exec (.portReset k early) s = .next t.resume ∧
      t.port k =
        (({ s.port k with
              tx := .running .portReset, loan := none, readout := if (s.port k).loan = none then (s.port k).readout else none,
              watch := .absent, hostSet := 0, hostMask := 0 } : Port).shift
          early 0x01) ∧
      (∀ j, j ≠ k → t.port j = s.port j) ∧
      (∀ n,
        t.record n =
          if (s.port k).loan.map (·.recId) = some n then (s.record n).map fun r => { r with state := .queued }
          else s.record n) ∧
      t.manager = (if s.manager = some k then none else s.manager) ∧
      t.mgrMask = (if s.manager = some k then 0 else s.mgrMask) ∧
      t = { s with ports := t.ports, records := t.records, manager := t.manager, mgrMask := t.mgrMask }

/-- R78 to R81, R83, R84, R86, R99: an in byte that takes nothing. At the completion of an in byte the port counts it,
presents the byte formed for the next position, and has shifted out the byte formed before, or 0xFF in its place when the
in byte came too early, which is noted. With select high it is ignored. In an ended transaction it is ignored and the next
out byte is 0x00. In byte 0 of a request that is taken at a later byte, by its code of 5.3, starts the request, and POST
enters HEADER and starts its timer (R88). The bytes a request keeps are appended to those it holds. In bytes after the
last taken one are ignored, and the sampled reply bytes are formed, then 0x00; in a refused POST they restart the timer.
When reserve ones left over go on (`resume`) is the model's choice (log 29). -/
def Obligations.InByteTaken : Prop :=
  (∀ (p : Port) (next : Byte),
    p.shift false next =
        { p with outShifted := p.outFormed, inCount := p.inCount + 1, outFormed := some next } ∧
      p.shift true next =
        { p with
          outShifted := some 0xFF, spoilt := p.inCount :: p.spoilt, inCount := p.inCount + 1,
          outFormed := some next }) ∧
  ∀ (k : PortId) (b : Byte) (early : Bool) (s : State),
    ((s.port k).tx = .idle → exec (.inByteCompletion k b early) s = .next s.resume) ∧
      ((s.port k).tx = .ended →
        exec (.inByteCompletion k b early) s = .next (s.setPort k ((s.port k).shift early 0x00)).resume) ∧
      (∀ r, (s.port k).tx = .opened →
        (b, r) ∈
          [((0x20 : Byte), Request.fetch), (0x31, .mask), (0x60, .readItem), (0x61, .writeItem), (0x70, .fence),
            (0x71, .unfence), (0x72, .purge), (0x73, .drain)] →
        exec (.inByteCompletion k b early) s =
          .next (s.setPort k (({ s.port k with tx := .running r } : Port).shift early 0x00)).resume) ∧
      ((s.port k).tx = .opened → b = 0x10 →
        exec (.inByteCompletion k b early) s =
          .next
            (s.setPort k
              (({ s.port k with
                    tx := .running .post, phase := .header
                    timer := if s.postTimeout = 0 then none else some s.postTimeout } : Port).shift
                early 0x00)).resume) ∧
      ((s.port k).tx = .running .post → (s.port k).phase = .header → (s.port k).inCount < 5 →
        (s.port k).replyRest = [] →
        exec (.inByteCompletion k b early) s =
          .next
            (s.setPort k
              (({ s.port k with
                    inBytes := (s.port k).inBytes ++ [b]
                    timer := if s.postTimeout = 0 then none else some s.postTimeout } : Port).shift
                early 0x00)).resume) ∧
      ((s.port k).tx = .running .readItem ∧ (s.port k).inCount = 1 ∨
          (s.port k).tx = .running .writeItem ∧ 1 ≤ (s.port k).inCount ∧ (s.port k).inCount ≤ 5 →
        (s.port k).replyRest = [] →
        exec (.inByteCompletion k b early) s =
          .next
            (s.setPort k (({ s.port k with inBytes := (s.port k).inBytes ++ [b] } : Port).shift early 0x00)).resume) ∧
      (∀ r, (s.port k).tx = .running r → r ≠ .post → r ≠ .fetch → lastTaken r < (s.port k).inCount →
        exec (.inByteCompletion k b early) s =
          .next
            (s.setPort k
              (({ s.port k with replyRest := (s.port k).replyRest.tail } : Port).shift early
                ((s.port k).replyRest.headD 0x00))).resume) ∧
      ((s.port k).tx = .running .post → (s.port k).phase = .refused → (s.port k).replyRest = [] →
        exec (.inByteCompletion k b early) s =
          .next
            (s.setPort k
              (({ s.port k with timer := if s.postTimeout = 0 then none else some s.postTimeout } : Port).shift early
                0x00)).resume)

/-- Log 4 (the model's choice): the completion of an in byte that is the taken byte of a request is the command of that
request. -/
def Obligations.InByteRoutes : Prop :=
  ∀ (k : PortId) (b : Byte) (early : Bool) (c : Instr) (s : State),
    commandOf k b early (s.byteStep k b) = some c → exec (.inByteCompletion k b early) s = exec c s

/-! ### Posting -/

/-- R100: at in byte 5 a POST is judged in its order: FENCED, LENGTH, NO_ROUTE, HOPS, FULL, NO_CELLS, TAKEN. A refusal
leaves all as it was but the port: its phase is REFUSED, its timer is restarted (R88), and with FULL or NO_CELLS its watch
becomes DEPTH of the class or CELLS of the claim (R37). R28: reserve ones that this claim came between go on after it.
R66: where the class was full before a fall that came together with the POST, the POST is judged as before the fall, FULL
with its watch set after it, or as after it. How the model lets events come together is its choice (logs 29 and 30). 11.4:
the class is bit 7 of the control byte and the hop limit bits 3 to 0; bits 6 to 4 are ignored. When reserve ones left over
go on (`resume`) is the model's choice (log 29). -/
def Obligations.PostJudgement : Prop :=
  ∀ (k : PortId) (dst control tag hi lo : Byte) (early : Bool) (s : State), (s.port k).tx = .running .post →
    (s.port k).phase = .header → (s.port k).inCount = 5 → (s.port k).inBytes = [dst, control, tag, hi] →
    let len := hi.toNat * 256 + lo.toNat
    let n := (len + 31) / 32
    let cls : MsgClass := if control.getLsbD 7 = true then .bulk else .express
    let hops : BitVec 4 := control.extractLsb' 0 4
    let found := s.lookup dst hops
    let room (d : Party) : Prop :=
      (s.qclass { dest := d, cls := cls }).occupancy < (s.qclass { dest := d, cls := cls }).depth
    let refused (u : State) (w : Watch) (code : Byte) : Host.Outcome State Fault Refusal :=
      .next
        (u.setPort k
            (({ s.port k with
                  phase := .refused, watch := w, inBytes := [dst, control, tag, hi, lo]
                  timer := if s.postTimeout = 0 then none else some s.postTimeout } : Port).shift
              early code)).resume
    let unheeded : State := { s with ahead := none, ties := s.ties + 1 }
    (∀ q, s.ahead = some q →
        exec (.post k lo early) s = refused unheeded (.depth q) 0x05 ∨
          exec (.post k lo early) s = exec (.post k lo early) unheeded) ∧
      (s.ahead = none → (s.port k).fenced = true → exec (.post k lo early) s = refused s (s.port k).watch 0x09) ∧
      (s.ahead = none → (s.port k).fenced = false →
        (len = 0 ∨ 1024 < len → exec (.post k lo early) s = refused s (s.port k).watch 0x08) ∧
          (1 ≤ len → len ≤ 1024 →
            (found = .noRoute → exec (.post k lo early) s = refused s (s.port k).watch 0x04) ∧
              (found = .hops → exec (.post k lo early) s = refused s (s.port k).watch 0x07) ∧
                ∀ d, found = .output d →
                  (¬room d →
                    exec (.post k lo early) s =
                      refused s (.depth { dest := d, cls := cls }) 0x05) ∧
                  (room d → s.grants (.host k) n = false → exec (.post k lo early) s = refused s (.cells n) 0x06) ∧
                  (room d → s.grants (.host k) n = true → (∃ m, s.record m = none) →
                    ∃ t, exec (.post k lo early) s = .next t ∧ (t.port k).outFormed = some 0x01)))

/-- R4, R5, R7, R101: the TAKEN step. The lowest-numbered free record is taken (R5). One place of the target class is
reserved, the usage of the posting host rises by the cells of the message, they are taken from the front of the free list,
and the record is made in the host's slot with the header's fields, class and hop limit by 11.4, and the port address as
it stands. The watch becomes absent and the port enters FILLING. CELLS LOW is raised when the free cell count falls below
a non-zero low mark. Nothing else changes. R28: reserve ones that this claim came between, if there are any, go on
after it; how the model lets a claim come between is its choice (log 29). -/
def Obligations.PostTaken : Prop :=
  ∀ (k : PortId) (dst control tag hi lo : Byte) (early : Bool) (d : Party) (m : RecId) (s : State),
    (s.port k).tx = .running .post → (s.port k).phase = .header → (s.port k).inCount = 5 →
    (s.port k).inBytes = [dst, control, tag, hi] → (s.port k).fenced = false →
    let len := hi.toNat * 256 + lo.toNat
    let n := (len + 31) / 32
    let cls : MsgClass := if control.getLsbD 7 = true then .bulk else .express
    let hops : BitVec 4 := control.extractLsb' 0 4
    let q : QueueId := { dest := d, cls := cls }
    1 ≤ len → len ≤ 1024 → s.lookup dst hops = .output d →
    (s.qclass q).occupancy < (s.qclass q).depth → s.grants (.host k) n = true →
    s.record m = none → (∀ i, i < m → s.record i ≠ none) → s.ahead = none →
    let low : Prop := s.lowMark ≠ 0 ∧ s.lowMark ≤ s.free.length ∧ s.free.length - n < s.lowMark
    let noted (j : PortId) : Port := if low then (s.port j).noteMgr .cellsLow else s.port j
    ∃ t : State, exec (.post k lo early) s = .next t.resume ∧
      t.free = s.free.drop n ∧
      (∀ p, t.used p = if p = .host k then s.used p + n else s.used p) ∧
      (∀ q', t.qclass q' = if q' = q then { s.qclass q with reserved := (s.qclass q).reserved + 1 } else s.qclass q') ∧
      (∀ i,
        t.record i =
          if i = m then
            some
              { origin := .host k, srcAddr := (s.port k).portAddr, dstAddr := dst, tag := tag,
                cls := cls, hops := hops, length := len, filled := 0,
                cells := s.free.take n, target := .queue q, reason := none, state := .assembling, resends := 0 }
          else s.record i) ∧
      (∀ p, t.slot p = if p = .host k then some m else s.slot p) ∧
      t.port k =
        (({ noted k with
              phase := .filling, watch := .absent, inBytes := [dst, control, tag, hi, lo]
              timer := if s.postTimeout = 0 then none else some s.postTimeout } : Port).shift
          early 0x01) ∧
      (∀ j, j ≠ k → t.port j = noted j) ∧ t.mgrSet = (if low then s.mgrSet ||| 0x80 else s.mgrSet) ∧
      t =
        { s with
          free := t.free, usage := t.usage, classes := t.classes, records := t.records, slots := t.slots,
          ports := t.ports, mgrSet := t.mgrSet }

/-- R8, R88, R102: a payload byte of a POST in FILLING goes to offset filled mod 32 of the cell at position filled / 32 of
the record's list, and filled rises by one; a byte beyond the declared length is not stored. The post timer is restarted
and 0x00 is formed. Every other byte of the pool reads as before. When reserve ones left over go on (`resume`) is the
model's choice (log 29). -/
def Obligations.PostPayloadByteStored : Prop :=
  ∀ (k : PortId) (b : Byte) (early : Bool) (n : RecId) (r : Record) (s : State), (s.port k).tx = .running .post →
    (s.port k).phase = .filling → s.slot (.host k) = some n → s.record n = some r → s.mem.wf = true →
    let answered : Port :=
      ({ s.port k with timer := if s.postTimeout = 0 then none else some s.postTimeout } : Port).shift early 0x00
    (∀ c, r.filled < r.length → r.cells[r.filled / 32]? = some c →
      let a := c.val * 32 + r.filled % 32
      ∃ t : State, exec (.postPayloadByte k b early) s = .next t.resume ∧ t.mem.read a = b ∧
        (∀ a', a' ≠ a → t.mem.read a' = s.mem.read a') ∧ t.mem.wf = true ∧
        (∀ i, t.record i = if i = n then some { r with filled := r.filled + 1 } else s.record i) ∧
        t.port k = answered ∧ (∀ j, j ≠ k → t.port j = s.port j) ∧
        t = { s with mem := t.mem, records := t.records, ports := t.ports }) ∧
    (r.length ≤ r.filled → exec (.postPayloadByte k b early) s = .next (s.setPort k answered).resume)

/-! ### Routing and service -/

/-- R45, R46, R47: a lookup. No valid entry with the address gives NO_ROUTE. The output of a valid entry is its primary, but
for a primary link that is not ACTIVE and an alternate that is present, the alternate. A link output with hop limit 0 gives
HOPS, and any other output is the answer. -/
def Obligations.LookupOutcome : Prop :=
  ∀ (a : Byte) (hops : BitVec 4) (s : State), RoutesUnique s →
    ((∀ i, (vget s.routes i).valid = true → (vget s.routes i).address ≠ a) → s.lookup a hops = .noRoute) ∧
      ∀ i, (vget s.routes i).valid = true → (vget s.routes i).address = a →
        let e := vget s.routes i
        let out : Party :=
          match e.primary, e.alternate with
          | .host k, _ => .host k
          | .link x, none => .link x
          | .link x, some d => if (s.link x).state = .active then .link x else d
        s.lookup a hops =
          match out with
          | .host k => .output (.host k)
          | .link x => if hops = 0 then .hops else .output (.link x)

/-- R69: the choice at a destination. The EXPRESS head is chosen when the BULK class is empty, with the counter unchanged, or
when the run counter is below the run limit, with the counter raised by one; otherwise the BULK head is chosen, if there is
one, and the counter becomes 0; otherwise nothing is chosen. -/
def Obligations.ServiceOrder : Prop :=
  ∀ (d : Party) (s : State),
    let es := (s.qclass { dest := d, cls := .express }).recs
    let bs := (s.qclass { dest := d, cls := .bulk }).recs
    (∀ e rest, es = e :: rest → bs = [] → s.choice d = some (e, .express, s.run d)) ∧
      (∀ e rest, es = e :: rest → bs ≠ [] → s.run d < vget s.runLimit d.num →
        s.choice d = some (e, .express, s.run d + 1)) ∧
      (∀ b rest, bs = b :: rest → es = [] ∨ vget s.runLimit d.num ≤ s.run d → s.choice d = some (b, .bulk, 0)) ∧
      (es = [] → bs = [] → s.choice d = none)

/-! ### Fetching -/

/-- R107, R108, R109, R115: at in byte 1 a FETCH is judged in its order. FENCED. A loan held is returned again, whatever
the UQ flag. The UQ flag without the role is NOT_MANAGER. A new choice takes the UQ head or, by service order, the head of
a class of the inbox; the record becomes LOANED, the loan names it with its queue, and it is the readout record. EMPTY
where there is none. Nothing else changes. When reserve ones left over go on (`resume`) is the model's choice (log 29). -/
def Obligations.FetchAnswers : Prop :=
  ∀ (k : PortId) (b : Byte) (early : Bool) (s : State), (s.port k).tx = .running .fetch → (s.port k).inCount = 1 →
    let c : Instr := if b.getLsbD 1 = true then .fetchUq k b early else .fetch k b early
    let reads (p : Port) (n : RecId) : Port := { p with readout := some n, autoRelease := b.getLsbD 0 }
    let lent (u : State) (n : RecId) (r : Record) (q : LoanQueue) : State :=
      (u.setRecord n (some { r with state := .loaned })).setPort k
        (reads { s.port k with loan := some { recId := n, queue := q } } n)
    ((s.port k).fenced = true → exec c s = answered k early 0x09 s) ∧
      ((s.port k).fenced = false →
        (∀ l, (s.port k).loan = some l →
            exec c s = answered k early 0x02 (s.setPort k (reads (s.port k) l.recId))) ∧
          ((s.port k).loan = none →
            (b.getLsbD 1 = true →
                (s.manager ≠ some k → exec c s = answered k early 0x0A s) ∧
                  (s.manager = some k →
                    (s.uq.recs = [] → exec c s = answered k early 0x03 s) ∧
                      ∀ n rest r, s.uq.recs = n :: rest → s.record n = some r →
                        exec c s = answered k early 0x02 (lent s n r .uq))) ∧
              (b.getLsbD 1 = false →
                (s.choice (.host k) = none → exec c s = answered k early 0x03 s) ∧
                  ∀ n cls run r, s.choice (.host k) = some (n, cls, run) → s.record n = some r →
                    exec c s = answered k early 0x02 (lent (s.setRun (.host k) run) n r (.inbox cls)))))

/-- R110: the out byte that the completion of a later in byte of a FETCH forms. While the loan names the readout record:
its header in out bytes 3 to 9, its payload in 10 to 9 + length, each byte from its cell, and 0x00 after. With no readout
record, 0x00. Nothing changes but the transaction. When reserve ones left over go on (`resume`) is the model's choice (log
29). -/
def Obligations.ReadoutBytes : Prop :=
  ∀ (k : PortId) (b : Byte) (early : Bool) (s : State), (s.port k).tx = .running .fetch → 2 ≤ (s.port k).inCount →
    let i := (s.port k).inCount + 1
    let forms (out : Byte) : Host.Outcome State Fault Refusal :=
      .next
        (s.setPort k (({ s.port k with replyRest := (s.port k).replyRest.tail } : Port).shift early out)).resume
    ((s.port k).readout = none → exec (.inByteCompletion k b early) s = forms 0x00) ∧
      ∀ l r, (s.port k).loan = some l → (s.port k).readout = some l.recId → s.record l.recId = some r →
        ∃ out, exec (.inByteCompletion k b early) s = forms out ∧
          (i = 3 → out = r.srcAddr) ∧ (i = 4 → out = r.dstAddr) ∧
          (i = 5 →
            out.getLsbD 7 = (r.cls == .bulk) ∧ out.extractLsb' 4 3 = 0 ∧ out.extractLsb' 0 4 = r.hops) ∧
          (i = 6 → out = r.tag) ∧ (i = 7 → out = BitVec.ofNat 8 (r.length / 256)) ∧
          (i = 8 → out = BitVec.ofNat 8 (r.length % 256)) ∧
          (i = 9 →
            out =
              match r.reason with
              | none => 0x00
              | some .noRoute => 0x01
              | some .hops => 0x02
              | some .full => 0x03
              | some .resends => 0x04) ∧
          (∀ j c, i = 10 + j → j < r.length → r.cells[j / 32]? = some c → out = s.mem.read (c.val * 32 + j % 32)) ∧
          (10 + r.length ≤ i → out = 0x00)

/-- R113: RELEASE is judged at in byte 0: FENCED, NO_LOAN, or the loaned record is discarded and the loan is none. When
reserve ones left over go on (`resume`) is the model's choice (log 29). -/
def Obligations.ReleaseEffect : Prop :=
  ∀ (k : PortId) (early : Bool) (s : State), (s.port k).tx = .opened →
    let u := s.setPort k { s.port k with tx := .running .release }
    ((s.port k).fenced = true → exec (.release k early) s = answered k early 0x09 u) ∧
      ((s.port k).fenced = false →
        ((s.port k).loan = none → exec (.release k early) s = answered k early 0x0C u) ∧
          ∀ l r, (s.port k).loan = some l → s.record l.recId = some r →
            exec (.release k early) s = answered k early 0x01 (u.discard l.recId) ∧
              ((u.discard l.recId).port k).loan = none ∧ (u.discard l.recId).record l.recId = none)

/-! ### Events -/

/-- R118, R120, R123: EVENTS takes a snapshot of the host set and, for the manager, of the manager set, forms its host
part and keeps its manager part (0x00 if absent) for out byte 2; no set changes. A raise sets its kind, and joins the late
raises of an open snapshot if its part has the kind. Each kind has its bit of 11.3. R124: what the close then clears
leaves a kind raised after the snapshot. When reserve ones left over go on (`resume`) is the model's choice (log 29). -/
def Obligations.EventsSnapshot : Prop :=
  (∀ (k : PortId) (early : Bool) (s : State), (s.port k).tx = .opened →
      let part : Option (Byte × Byte) := if s.manager = some k then some (s.mgrSet, 0) else none
      exec (.events k early) s =
        answered k early (s.port k).hostSet
          (s.setPort k
            { s.port k with
              tx := .running .events
              snapshot := some { host := (s.port k).hostSet, hostLate := 0, mgr := part }
              replyRest := [if s.manager = some k then s.mgrSet else 0x00] })) ∧
    (∀ (k : PortId) (e : HostEvent) (s : State),
      s.raiseHost k e =
        s.setPort k
          { s.port k with
            hostSet := (s.port k).hostSet ||| e.bit
            snapshot := (s.port k).snapshot.map fun sn => { sn with hostLate := sn.hostLate ||| (sn.host &&& e.bit) } }) ∧
    (∀ (e : MgrEvent) (s : State),
      s.raiseMgr e =
        { s with
          mgrSet := s.mgrSet ||| e.bit
          ports := s.ports.map fun p =>
            { p with
              snapshot := p.snapshot.map fun sn =>
                { sn with mgr := sn.mgr.map fun m => (m.1, m.2 ||| (m.1 &&& e.bit)) } } }) ∧
    (∀ (p : Port) (e : HostEvent),
      p.raise e =
        { p with
          hostSet := p.hostSet ||| e.bit
          snapshot := p.snapshot.map fun sn => { sn with hostLate := sn.hostLate ||| (sn.host &&& e.bit) } }) ∧
    (∀ (p : Port) (e : MgrEvent),
      p.noteMgr e =
        { p with
          snapshot := p.snapshot.map fun sn =>
            { sn with mgr := sn.mgr.map fun m => (m.1, m.2 ||| (m.1 &&& e.bit)) } }) ∧
    [HostEvent.arrived, .room, .postAborted, .loanLost, .fenceChanged, .purged, .restarted, .protocol].map HostEvent.bit =
      [0x01, 0x02, 0x04, 0x08, 0x10, 0x20, 0x40, 0x80] ∧
    [MgrEvent.linkUp 0, .linkUp 1, .linkDown 0, .linkDown 1, .undeliverable, .undeliverableDropped, .linkDiscard,
          .cellsLow].map
        MgrEvent.bit =
      [0x01, 0x02, 0x04, 0x08, 0x10, 0x20, 0x40, 0x80] ∧
    ∀ set part late bit : Byte, (set ||| bit) &&& ~~~(part &&& ~~~(late ||| (part &&& bit))) &&& bit = bit

/-- R126: in byte 1 of MASK writes the host mask, and in byte 2 the manager mask if the port holds the role. Each forms
0x00; nothing else changes. When reserve ones left over go on (`resume`) is the model's choice (log 29). -/
def Obligations.MaskWrites : Prop :=
  ∀ (k : PortId) (b : Byte) (early : Bool) (s : State), (s.port k).tx = .running .mask →
    ((s.port k).inCount = 1 →
        exec (.mask k b early) s = answered k early 0x00 (s.setPort k { s.port k with hostMask := b })) ∧
      ((s.port k).inCount = 2 →
        exec (.managerMaskWrite k b early) s =
          answered k early 0x00 (if s.manager = some k then { s with mgrMask := b } else s))

/-! ### The manager and the items -/

/-- R131, R133, R127: CLAIM and RESIGN. A claim of the empty slot takes it with an empty manager mask; the holder's own
claim changes nothing; another's is HELD. A resign of the holder empties the slot and the mask and puts a record it holds
on loan from the UQ back to QUEUED; a loan from the inbox stays. The manager set stands in all cases. When reserve ones
left over go on (`resume`) is the model's choice (log 29). -/
def Obligations.RoleRequests : Prop :=
  ∀ (k : PortId) (early : Bool) (s : State), (s.port k).tx = .opened →
    let c := s.setPort k { s.port k with tx := .running .claim }
    let r := s.setPort k { s.port k with tx := .running .resign }
    ((s.port k).fenced = true →
        exec (.claim k early) s = answered k early 0x09 c ∧ exec (.resign k early) s = answered k early 0x09 r) ∧
      ((s.port k).fenced = false →
        (s.manager = none →
            exec (.claim k early) s = answered k early 0x01 { c with manager := some k, mgrMask := 0 }) ∧
          (s.manager = some k → exec (.claim k early) s = answered k early 0x01 c) ∧
          (∀ m, s.manager = some m → m ≠ k → exec (.claim k early) s = answered k early 0x0B c) ∧
          (s.manager ≠ some k → exec (.resign k early) s = answered k early 0x0A r) ∧
          (s.manager = some k →
            let left : State := { r with manager := none, mgrMask := 0 }
            ((∀ l, (s.port k).loan = some l → l.queue ≠ .uq) →
                exec (.resign k early) s = answered k early 0x01 left) ∧
              ∀ l n, (s.port k).loan = some l → l.queue = .uq → s.record l.recId = some n →
                exec (.resign k early) s =
                  answered k early 0x01
                    ((left.setRecord l.recId (some { n with state := .queued })).setPort k
                      { s.port k with tx := .running .resign, loan := none, readout := none })))

/-- R134, R135, R140, 11.5, 11.7: READ ITEM at in byte 2: FENCED, RANGE where the id and index name no item, and otherwise
DONE with the four value bytes of one sample kept for out bytes 4 to 7; and what the value bytes of each item are. When
reserve ones left over go on (`resume`) is the model's choice (log 29). -/
def Obligations.ItemReads : Prop :=
  (∀ (k : PortId) (id b : Byte) (early : Bool) (s : State), (s.port k).tx = .running .readItem →
      (s.port k).inCount = 2 → (s.port k).inBytes = [id] →
      let samples (v : List Byte) : State := s.setPort k { s.port k with replyRest := v }
      ((s.port k).fenced = true → exec (.readItem k b early) s = answered k early 0x09 (samples [])) ∧
        ((s.port k).fenced = false →
          (s.itemValue id b = none → exec (.readItem k b early) s = answered k early 0x0D (samples [])) ∧
            ∀ v, s.itemValue id b = some v → exec (.readItem k b early) s = answered k early 0x01 (samples v))) ∧
    ∀ s : State,
      (∀ id index : Byte, (s.itemValue id index).isSome = true ↔ index.toNat < itemIndices id) ∧
        (∀ i : Fin 32,
          let e := vget s.routes i
          s.itemValue 0x01 (BitVec.ofNat 8 i.val) =
            some
              [if e.valid then 0x01 else 0x00, e.address, partyByte e.primary,
                match e.alternate with
                | none => 0xFF
                | some d => partyByte d]) ∧
        (∀ k : PortId,
          s.itemValue 0x02 (BitVec.ofNat 8 k.val) = some [0, 0, 0, (s.port k).portAddr] ∧
            s.itemValue 0x13 (BitVec.ofNat 8 k.val) =
              some
                [if (s.port k).fenced then 0x01 else 0x00,
                  match (s.port k).loan with
                  | none => 0xFF
                  | some l => BitVec.ofNat 8 (l.queueNum k),
                  match (s.port k).watch with
                  | .absent => 0x00
                  | .cells _ => 0x01
                  | .depth _ => 0x02,
                  0]) ∧
        (∀ p : Party,
          s.itemValue 0x03 (partyByte p) = some [0, 0, hiByte (s.guar p), loByte (s.guar p)] ∧
            s.itemValue 0x04 (partyByte p) = some [0, 0, hiByte (s.lim p), loByte (s.lim p)] ∧
            s.itemValue 0x06 (partyByte p) = some [0, 0, 0, BitVec.ofNat 8 (vget s.runLimit p.num)] ∧
            s.itemValue 0x10 (partyByte p) = some [0, 0, hiByte (s.used p), loByte (s.used p)]) ∧
        (∀ q : QueueId,
          s.itemValue 0x05 (classByte q) = some [0, 0, 0, BitVec.ofNat 8 (s.qclass q).depth] ∧
            s.itemValue 0x14 (classByte q) =
              some
                [0, 0, BitVec.ofNat 8 (s.qclass q).recs.length, BitVec.ofNat 8 (s.qclass q).reserved]) ∧
        s.itemValue 0x14 12 = some [0, 0, BitVec.ofNat 8 s.uq.recs.length, BitVec.ofNat 8 s.uq.reserved] ∧
        (∀ x : LinkId,
          let l := s.link x
          s.itemValue 0x07 (BitVec.ofNat 8 x.val) =
              some
                [(if l.ctrl.enable then 0x10 else 0x00) ||| (if l.ctrl.autoRestart then 0x01 else 0x00),
                  BitVec.ofNat 8 l.ctrl.rate, BitVec.ofNat 8 l.ctrl.window, BitVec.ofNat 8 l.ctrl.resendLimit] ∧
            s.itemValue 0x11 (BitVec.ofNat 8 x.val) =
              some
                [match l.state with
                  | .off => 0x00
                  | .start => 0x01
                  | .active => 0x02
                  | .hold => 0x03,
                  match l.lastFault with
                  | .noFault => 0x00
                  | .silence => 0x01
                  | .symbol => 0x02
                  | .order => 0x03
                  | .credit => 0x04
                  | .frame => 0x05,
                  BitVec.ofNat 8 l.credit, BitVec.ofNat 8 l.reserved.length]) ∧
        s.itemValue 0x08 0 = some [0, 0, 0, BitVec.ofNat 8 s.postTimeout] ∧
        s.itemValue 0x09 0 = some [0, 0, hiByte s.lowMark, loByte s.lowMark] ∧
        let unused := ((List.finRange 128).filter fun n => (s.record n).isNone).length
        s.itemValue 0x12 0 = some [hiByte s.free.length, loByte s.free.length, hiByte unused, loByte unused]

/-- R91, R136, R141: the checks that come before a request's own. A WRITE ITEM of any item, and FENCE, UNFENCE, PURGE,
DRAIN and RESTART: FENCED from a fenced port, NOT_MANAGER from a port without the role; then READ_ONLY for ids 0x10 to
0x14 and RANGE for an id or an operand out of range; and SELF for a FENCE of the manager's own port. A refusal changes
nothing but the transaction. When reserve ones left over go on (`resume`) is the model's choice (log 29). -/
def Obligations.RequestChecks : Prop :=
  (∀ (k : PortId) (id index v0 v1 v2 b : Byte) (early : Bool) (c : Instr) (s : State),
      WritesItem s k id index v0 v1 v2 → commandOf k b early (s.byteStep k b) = some c →
      ((s.port k).fenced = true → exec c s = answered k early 0x09 s) ∧
        ((s.port k).fenced = false → s.manager ≠ some k → exec c s = answered k early 0x0A s) ∧
        (Manages s k →
          (0x10 ≤ id.toNat → id.toNat ≤ 0x14 → exec c s = answered k early 0x10 s) ∧
            (id = 0 ∨ 9 < id.toNat ∧ id.toNat < 0x10 ∨ 0x14 < id.toNat → exec c s = answered k early 0x0D s))) ∧
    (∀ (k : PortId) (r : Request) (b : Byte) (early : Bool) (c : Instr) (s : State), isAdmin r = true →
      (s.port k).tx = .running r → (s.port k).inCount = 1 → commandOf k b early (s.byteStep k b) = some c →
      ((s.port k).fenced = true → exec c s = answered k early 0x09 s) ∧
        ((s.port k).fenced = false → s.manager ≠ some k → exec c s = answered k early 0x0A s) ∧
        (Manages s k →
          (adminBound r < b.toNat → exec c s = answered k early 0x0D s) ∧
            (r = .fence → b.toNat = k.val → exec c s = answered k early 0x11 s))) ∧
    ∀ (k : PortId) (early : Bool) (s : State), (s.port k).tx = .opened →
      let u := s.setPort k { s.port k with tx := .running .restart }
      ((s.port k).fenced = true → exec (.restart k early) s = answered k early 0x09 u) ∧
        ((s.port k).fenced = false → s.manager ≠ some k → exec (.restart k early) s = answered k early 0x0A u)

/-- R70, R96, R139: the manager's writes of PORTADDR, RUNLIMIT, POSTTIMEOUT and LOWMARK. In range, DONE replaces the item
and nothing else; out of range, RANGE changes nothing. A run counter stays as it stands when its limit is written. When
reserve ones left over go on (`resume`) is the model's choice (log 29). -/
def Obligations.PlainItemWrites : Prop :=
  ∀ (k : PortId) (id index v0 v1 v2 b : Byte) (early : Bool) (s : State), WritesItem s k id index v0 v1 v2 →
    Manages s k →
    let range := answered k early 0x0D s
    let value := v2.toNat * 256 + b.toNat
    (id = 0x02 →
        (∀ j : PortId, index = BitVec.ofNat 8 j.val →
            exec (.portaddrWrite k b early) s =
              answered k early 0x01 (s.setPort j { s.port j with portAddr := b })) ∧
          (4 ≤ index.toNat → exec (.portaddrWrite k b early) s = range)) ∧
      (id = 0x06 →
        (∀ p : Party, index = partyByte p →
            (1 ≤ b.toNat → b.toNat ≤ 15 →
                exec (.runlimitWrite k b early) s =
                  answered k early 0x01 { s with runLimit := vset s.runLimit p.num b.toNat }) ∧
              (b.toNat = 0 ∨ 15 < b.toNat → exec (.runlimitWrite k b early) s = range)) ∧
          (6 ≤ index.toNat → exec (.runlimitWrite k b early) s = range)) ∧
      (id = 0x08 →
        (index = 0 →
            exec (.posttimeoutWrite k b early) s = answered k early 0x01 { s with postTimeout := b.toNat }) ∧
          (index ≠ 0 → exec (.posttimeoutWrite k b early) s = range)) ∧
      (id = 0x09 →
        (index = 0 → value ≤ 511 →
            exec (.lowmarkWrite k b early) s = answered k early 0x01 { s with lowMark := value }) ∧
          (index ≠ 0 ∨ 511 < value → exec (.lowmarkWrite k b early) s = range))

/-- R44: the manager's write of ROUTE. RANGE for an index above 31, a valid field above 1, a primary above 5 or an
alternate that is neither 0 to 5 nor 0xFF; DUPLICATE for a valid entry with the address of another valid entry; otherwise
all four fields of the entry are replaced and nothing else. When reserve ones left over go on (`resume`) is the model's
choice (log 29). -/
def Obligations.RouteWrites : Prop :=
  ∀ (k : PortId) (index v0 v1 v2 b : Byte) (early : Bool) (s : State), WritesItem s k 0x01 index v0 v1 v2 →
    Manages s k →
    (31 < index.toNat ∨ 1 < v0.toNat ∨ 5 < v2.toNat ∨ 5 < b.toNat ∧ b ≠ 0xFF →
        exec (.routeWrite k b early) s = answered k early 0x0D s) ∧
      ∀ (i : Fin 32) (valid : Bool) (d : Party) (alt : Option Party), index = BitVec.ofNat 8 i.val →
        v0 = (if valid then 0x01 else 0x00) → v2 = partyByte d → b = (alt.map partyByte).getD 0xFF →
        let taken : Prop := ∃ j, j ≠ i ∧ (vget s.routes j).valid = true ∧ (vget s.routes j).address = v1
        (valid = true ∧ taken → exec (.routeWrite k b early) s = answered k early 0x0E s) ∧
          (¬(valid = true ∧ taken) →
            exec (.routeWrite k b early) s =
              answered k early 0x01
                { s with
                  routes := vset s.routes i { valid := valid, address := v1, primary := d, alternate := alt } })

/-- R35, R36, R137: the manager's writes of GUARANTEE and LIMIT. RANGE and CONFLICT change nothing. Otherwise the figure
is replaced, which is an event at the accounts: for every CELLS watch and for both links' reservations with a guarantee,
or the link of that index alone with a limit. When reserve ones left over go on (`resume`) is the model's choice (log 29).
-/
def Obligations.AccountWrites : Prop :=
  ∀ (k : PortId) (id index v0 v1 v2 b : Byte) (early : Bool) (s : State), WritesItem s k id index v0 v1 v2 →
    Manages s k →
    let n := v2.toNat * 256 + b.toNat
    (id = 0x03 →
        (6 ≤ index.toNat → exec (.guaranteeWrite k b early) s = answered k early 0x0D s) ∧
          ∀ p : Party, index = partyByte p →
            let g (i : Fin 6) : Nat := if i = p.num then n else vget s.guarantee i
            let conflict : Prop := 512 < sumParties g ∨ 512 - sumParties g < sumParties fun i => vget s.usage i - g i
            (512 < n ∨ s.lim p < n → exec (.guaranteeWrite k b early) s = answered k early 0x0D s) ∧
              (n ≤ 512 → n ≤ s.lim p →
                (conflict → exec (.guaranteeWrite k b early) s = answered k early 0x0F s) ∧
                  (¬conflict →
                    exec (.guaranteeWrite k b early) s =
                      answered k early 0x01
                        (State.accountsEvent { s with guarantee := vset s.guarantee p.num n } [0, 1] true)))) ∧
      (id = 0x04 →
        (6 ≤ index.toNat → exec (.limitWrite k b early) s = answered k early 0x0D s) ∧
          ∀ p : Party, index = partyByte p →
            (n < s.guar p ∨ 512 < n → exec (.limitWrite k b early) s = answered k early 0x0D s) ∧
              (s.guar p ≤ n → n ≤ 512 →
                exec (.limitWrite k b early) s =
                  answered k early 0x01
                    (State.accountsEvent { s with limit := vset s.limit p.num n }
                      (match p with
                        | .host _ => []
                        | .link x => [x])
                      true)))

/-- R63, R38, R39: the manager's write of DEPTH. RANGE for an index above 11 or a value of 0 or above 16; CONFLICT below
the occupancy or past the depth budget; otherwise the limit is replaced, and each DEPTH watch of the class is satisfied,
with ROOM, if the class then has room. Nothing else changes. When reserve ones left over go on (`resume`) is the model's
choice (log 29). -/
def Obligations.DepthWrites : Prop :=
  ∀ (k : PortId) (index v0 v1 v2 b : Byte) (early : Bool) (s : State), WritesItem s k 0x05 index v0 v1 v2 →
    Manages s k →
    (11 < index.toNat ∨ b.toNat = 0 ∨ 16 < b.toNat → exec (.depthWrite k b early) s = answered k early 0x0D s) ∧
      ∀ q : QueueId, index = classByte q → 1 ≤ b.toNat → b.toNat ≤ 16 →
        let total := ((List.finRange 12).map fun i => if i = q.num then b.toNat else (vget s.classes i).depth).sum
        let occupancy := (s.qclass q).recs.length + (s.qclass q).reserved
        (b.toNat < occupancy ∨ 114 < total → exec (.depthWrite k b early) s = answered k early 0x0F s) ∧
          (occupancy ≤ b.toNat → total ≤ 114 →
            ∃ u, exec (.depthWrite k b early) s = answered k early 0x01 u ∧
              (∀ q', u.qclass q' = if q' = q then { s.qclass q with depth := b.toNat } else s.qclass q') ∧
              (∀ j,
                u.port j =
                  if (s.port j).watch = .depth q ∧ occupancy < b.toNat then
                    { (s.port j).raise .room with watch := .absent }
                  else s.port j) ∧
              u = { s with classes := u.classes, ports := u.ports })

/-- R138, R160, R152, R34: the manager's write of LINKCTRL. RANGE changes nothing. Otherwise all five fields are replaced.
A write that leaves enable as it was only lets the link reserve by the new window. Enable from 0 to 1 takes an OFF link to
START at the written rate; a disabled link that is not OFF, which no run reaches, is left as it is (log 17, the model's
choice). Enable from 1 to 0 takes the link to OFF: from START and HOLD that is all; from ACTIVE see
`LinkDisableFromActive`. A write with no change of enable and a disable find the reserve ones left of the link made (`u`;
the model's choice, log 29). When reserve ones left over go on (`resume`) is the model's choice (log 29). -/
def Obligations.LinkCtrlWrites : Prop :=
  ∀ (k : PortId) (index v0 v1 v2 b : Byte) (early : Bool) (s : State), WritesItem s k 0x07 index v0 v1 v2 →
    Manages s k →
    (∀ c, 1 < index.toNat ∨ 0x1F < v0.toNat ∨ 1 < v0.toNat % 16 ∨ 4 < v1.toNat ∨ v2 = 0 ∨ 16 < v2.toNat ∨ b = 0 ∨
            7 < b.toNat →
          commandOf k b early (s.byteStep k b) = some c → exec c s = answered k early 0x0D s) ∧
      ∀ (x : LinkId) (en auto : Bool), index = BitVec.ofNat 8 x.val →
        v0 = (if en then 0x10 else 0x00) + (if auto then 0x01 else 0x00) → v1.toNat ≤ 4 → 1 ≤ v2.toNat →
        v2.toNat ≤ 16 → 1 ≤ b.toNat → b.toNat ≤ 7 →
        let ctrl : LinkCtrl :=
          { enable := en, autoRestart := auto, rate := v1.toNat, window := v2.toNat, resendLimit := b.toNat }
        let l : Link := { s.link x with ctrl := ctrl }
        let u := s.finish x
        let m : Link := { u.link x with ctrl := ctrl }
        (en = (s.link x).ctrl.enable →
            exec (.writeItem k b early) s = answered k early 0x01 ((u.setLink x m).accountsEvent [x] false)) ∧
          ((s.link x).ctrl.enable = false → en = true →
            exec (.linkEnable k b early) s =
              answered k early 0x01
                (s.setLink x
                  (if l.state = .off then
                    { l with state := .start, opRate := v1.toNat, fillsSent := 0, fillSeen := false, holdTimer := false }
                  else l))) ∧
          ((s.link x).ctrl.enable = true → en = false →
            (l.state = .off → exec (.linkDisable k b early) s = answered k early 0x01 (u.setLink x m)) ∧
              (l.state = .start →
                exec (.linkDisable k b early) s =
                  answered k early 0x01 (u.setLink x { m with state := .off, fillsSent := 0, fillSeen := false })) ∧
              (l.state = .hold →
                exec (.linkDisable k b early) s =
                  answered k early 0x01 (u.setLink x { m with state := .off, holdTimer := false })))

/-- R160, R33, R20: enable from 1 to 0 on an ACTIVE link. The sending record returns to QUEUED with its resends as they
are and an ABM becomes due, unless its EOM has begun; the open inbound message is closed and its record discarded; the
reserved list goes to the tail of the free list after that record's cells, with its charge; credit, settle count, silence
timer and pending GRANTs are cleared; the link is OFF and LINK x DOWN is raised. Then what came back is passed on (see
`DiscardEffect` and `ReservationsSettle`). The order is the model's reading (log 14). The disable finds the reserve ones
left of the link made (`u`), and returns their cells with the rest (log 29, the model's choice). When reserve ones left
over go on (`resume`) is the model's choice (log 29). -/
def Obligations.LinkDisableFromActive : Prop :=
  ∀ (k : PortId) (index v0 v1 v2 b : Byte) (early : Bool) (x : LinkId) (auto : Bool) (s : State),
    WritesItem s k 0x07 index v0 v1 v2 → Manages s k → index = BitVec.ofNat 8 x.val →
    v0 = (if auto then 0x01 else 0x00) → v1.toNat ≤ 4 → 1 ≤ v2.toNat → v2.toNat ≤ 16 → 1 ≤ b.toNat → b.toNat ≤ 7 →
    (s.link x).ctrl.enable = true → (s.link x).state = .active →
    let u := s.finish x
    let l : Link :=
      { u.link x with
        ctrl := { enable := false, autoRestart := auto, rate := v1.toNat, window := v2.toNat, resendLimit := b.toNat } }
    let s0 := u.setLink x l
    let closed (u : State) : State :=
      let c :=
        match s.slot (.link x) with
        | none => u
        | some n => u.discardOne n
      ((c.setFree (c.free ++ l.reserved)).setUsed (.link x) (c.used (.link x) - l.reserved.length)).setLink x
        { c.link x with
          isOpen := false, hdr := [], reserved := [], pendingGrants := 0, state := .off, credit := 0, settle := 0,
          silence := false }
    (l.sending = none ∨ (∃ n, l.sending = some { recId := n, progress := .eomBegun }) →
        ∃ back, Returns s (s.slot (.link x)).toList (s.slot (.link x)).toList (!l.reserved.isEmpty) back ∧
          exec (.linkDisable k b early) s =
            answered k early 0x01 (((closed s0).raiseMgr (.linkDown x)).passOn s0 back)) ∧
      ∀ sd r, l.sending = some sd → sd.progress ≠ .eomBegun → s.record sd.recId = some r →
        ∃ back, Returns s (s.slot (.link x)).toList (s.slot (.link x)).toList (!l.reserved.isEmpty) back ∧
          exec (.linkDisable k b early) s =
            answered k early 0x01
              (((closed
                      ((s0.setRecord sd.recId (some { r with state := .queued })).setLink x
                        { l with sending := none, abmDue := true })).raiseMgr
                  (.linkDown x)).passOn
                s0 back)

/-! ### Administrative requests -/

/-- R92, R142, R143: the manager's FENCE of another port and UNFENCE. A fence sets the flag, ends an open transaction (a
TAKEN POST is discarded with POST ABORTED), puts a loaned record back to QUEUED and raises FENCE CHANGED; the watch, the
inbox, the account and the masks stand. A fence of a fenced port and an unfence of an unfenced one change nothing. When
reserve ones left over go on (`resume`) is the model's choice (log 29). -/
def Obligations.FenceEffect : Prop :=
  ∀ (k j : PortId) (b : Byte) (early : Bool) (s : State), (s.port k).inCount = 1 → Manages s k →
    b = BitVec.ofNat 8 j.val →
    ((s.port k).tx = .running .unfence →
        ((s.port j).fenced = false → exec (.unfence k b early) s = answered k early 0x01 s) ∧
          ((s.port j).fenced = true →
            exec (.unfence k b early) s =
              answered k early 0x01
                (s.setPort j (({ s.port j with fenced := false } : Port).raise .fenceChanged)))) ∧
      ((s.port k).tx = .running .fence → j ≠ k →
        ((s.port j).fenced = true → exec (.fence k b early) s = answered k early 0x01 s) ∧
          ((s.port j).fenced = false →
            let live : Prop := (s.port j).tx ≠ .idle ∧ (s.port j).tx ≠ .ended
            let s0 := s.setPort j { s.port j with fenced := true }
            let responds (s1 : State) (p : Port) : Prop :=
              ∃ t, exec (.fence k b early) s = answered k early 0x01 t ∧ (∀ i, i ≠ j → t.port i = s1.port i) ∧
                t.port j =
                  { p with
                      loan := none, readout := if p.loan = none then p.readout else none,
                      hostSet := p.hostSet ||| 0x10
                      snapshot := p.snapshot.map fun sn => { sn with hostLate := sn.hostLate ||| (sn.host &&& 0x10) } } ∧
                (∀ n,
                  t.record n =
                    if p.loan.map (·.recId) = some n then (s1.record n).map fun r => { r with state := .queued }
                    else s1.record n) ∧
                t = { s1 with ports := t.ports, records := t.records }
            let ended (p : Port) : Port :=
              { p with
                tx := .ended, timer := none, snapshot := none, readout := none, autoRelease := false, phase := .noPost,
                replyRest := [] }
            (¬live → responds s0 (s0.port j)) ∧
              (live → (s.port j).phase ≠ .filling → responds s0 (ended (s0.port j))) ∧
              ∀ n, live → (s.port j).phase = .filling → s.slot (.host j) = some n →
                let s1 := (s0.discard n).raiseHost j .postAborted
                responds s1 (ended (s1.port j))))

/-- R73, R144, R20: PURGE of an inbox or of the UQ. Every committed record is discarded as one event, EXPRESS before BULK,
and the freed cells and places are passed on; an inbox's run counter becomes 0, LOAN LOST is raised on the port if it held
a loan from its inbox, and PURGED in any case. With the UQ, LOAN LOST on the manager's port if it held a UQ loan, and no
PURGED. The queues are then empty, the loan is none, and reservations stand. When reserve ones left over go on (`resume`)
is the model's choice (log 29). -/
def Obligations.PurgeEffect : Prop :=
  ∀ (k : PortId) (b : Byte) (early : Bool) (s : State), (s.port k).tx = .running .purge → (s.port k).inCount = 1 →
    Manages s k →
    (∀ j : PortId, b = BitVec.ofNat 8 j.val →
        let e : QueueId := { dest := .host j, cls := .express }
        let l : QueueId := { dest := .host j, cls := .bulk }
        let ns := (s.qclass e).recs ++ (s.qclass l).recs
        let held := (s.port j).loan.any fun o => o.queue != .uq
        ∃ v back, Returns s ns ns false back ∧
          v = ((ns.foldl State.discardOne s).setRun (.host j) 0).passOn s back ∧
          exec (.purge k b early) s =
            answered k early 0x01 ((if held = true then v.raiseHost j .loanLost else v).raiseHost j .purged) ∧
          v.run (.host j) = 0 ∧
          (ReferencesSound s →
            (v.qclass e).recs = [] ∧ (v.qclass l).recs = [] ∧ (∀ q, (v.qclass q).reserved = (s.qclass q).reserved) ∧
              (∀ n, n ∈ ns → v.record n = none) ∧ (held = true → (v.port j).loan = none))) ∧
      (b = 4 →
        let held := (s.port k).loan.any fun o => o.queue == .uq
        ∃ v back, Returns s s.uq.recs s.uq.recs false back ∧
          v = (s.uq.recs.foldl State.discardOne s).passOn s back ∧
          exec (.purge k b early) s =
            answered k early 0x01 (if held = true then v.raiseHost k .loanLost else v) ∧
          (ReferencesSound s →
            v.uq = { recs := [], reserved := s.uq.reserved } ∧ (∀ n, n ∈ s.uq.recs → v.record n = none) ∧
              (held = true → (v.port k).loan = none)))

/-- R74, R145, R171: DRAIN of a link. If it is ACTIVE and sending a record whose EOM has not begun, an ABM becomes due.
Every committed record of its classes is discarded as one event, EXPRESS before BULK, and the freed cells and places are
passed on; its run counter becomes 0. The classes are then empty, the transmitter names no record, and reservations stand.
When reserve ones left over go on (`resume`) is the model's choice (log 29). -/
def Obligations.DrainEffect : Prop :=
  ∀ (k : PortId) (x : LinkId) (b : Byte) (early : Bool) (s : State), (s.port k).tx = .running .drain →
    (s.port k).inCount = 1 → Manages s k → b = BitVec.ofNat 8 x.val →
    let e : QueueId := { dest := .link x, cls := .express }
    let l : QueueId := { dest := .link x, cls := .bulk }
    let ns := (s.qclass e).recs ++ (s.qclass l).recs
    let due :=
      (s.link x).state == .active && (s.link x).sending.any fun sd => sd.progress != .eomBegun
    let s0 := if due = true then s.setLink x { s.link x with abmDue := true } else s
    ∃ v back, Returns s ns ns false back ∧ v = ((ns.foldl State.discardOne s0).setRun (.link x) 0).passOn s back ∧
      exec (.drain k b early) s = answered k early 0x01 (v.transmitterChoose x) ∧ v.run (.link x) = 0 ∧
      (ReferencesSound s →
        v.transmitterChoose x = v ∧ (v.qclass e).recs = [] ∧ (v.qclass l).recs = [] ∧
          (∀ q, (v.qclass q).reserved = (s.qclass q).reserved) ∧ (∀ n, n ∈ ns → v.record n = none) ∧
          (v.link x).sending = none ∧ (v.link x).state = (s.link x).state ∧ (v.link x).credit = (s.link x).credit)

/-- R22, R41, R58, R77, R98, R117, R129, R146, R163, R179: the manager's RESTART. All dynamic state is at its power-on
condition: the free list ascending, no record, empty queues, no usage; loans, watches and timers cleared and each host set
RESTARTED alone; other ports' open transactions ended; enabled links in HOLD with exit START, the others OFF. The
configuration, the role, the fences, the masks and the requester's own transaction stand. When reserve ones left over go
on (`resume`) is the model's choice (log 29). -/
def Obligations.RestartEffect : Prop :=
  ∀ (k : PortId) (early : Bool) (s : State), (s.port k).tx = .opened → Manages s k →
    let cleared (p : Port) : Port :=
      { p with loan := none, readout := none, watch := .absent, timer := none, hostSet := 0x40 }
    ∃ t, exec (.restart k early) s = answered k early 0x01 t ∧ t.free = List.finRange 512 ∧
      (∀ n, t.record n = none) ∧ (∀ p, t.slot p = none ∧ t.used p = 0 ∧ t.run p = 0) ∧
      (∀ q, t.qclass q = { recs := [], reserved := 0, depth := (s.qclass q).depth }) ∧
      t.uq = { recs := [], reserved := 0 } ∧ t.mgrSet = 0 ∧
      t.port k = cleared { s.port k with tx := .running .restart } ∧
      (∀ j, j ≠ k → (s.port j).tx = .idle ∨ (s.port j).tx = .ended → t.port j = cleared (s.port j)) ∧
      (∀ j, j ≠ k → (s.port j).tx ≠ .idle → (s.port j).tx ≠ .ended →
        t.port j =
          cleared
            { s.port j with
              tx := .ended, snapshot := none, autoRelease := false, phase := .noPost, replyRest := [] }) ∧
      (∀ x,
        let bare : Link :=
          { s.link x with
            fillsSent := 0, fillSeen := false, settle := 0, silence := false, credit := 0, pendingGrants := 0,
            abmDue := false, isOpen := false, lastFault := .noFault, reserved := [], sending := none, hdr := [] }
        t.link x =
          if (s.link x).ctrl.enable = true then { bare with state := .hold, holdTimer := true, holdExit := .start }
          else { bare with state := .off, holdTimer := false }) ∧
      t =
        { s with
          free := t.free, records := t.records, slots := t.slots, usage := t.usage, classes := t.classes, uq := t.uq,
          runCount := t.runCount, ports := t.ports, links := t.links, mgrSet := t.mgrSet, owed := [], ahead := none }

/-! ### Links: the transmitter -/

/-- R150, R153, R154, R166, R168: FILL and GRANT. In START a FILL is counted up to 8, and the eighth takes a link that has
seen a FILL into ACTIVE. A FILL of the settle run lowers the settle count, and the last lets the transmitter choose. With
nothing to send, FILL. A GRANT lowers the pending count. The choice: ACTIVE, settled, no record named and no ABM due, the
record chosen by service order becomes SENDING at header byte 1; otherwise nothing changes. Two clauses are the model's
choice: that SETTLE_END is the completion of the last settle FILL (log 18), and that a SEND_FILL in OFF or HOLD, where
none is sent, leaves the state (log 3). When reserve ones left over go on (`resume`) is the model's choice (log 29). -/
def Obligations.SendFillAndGrant : Prop :=
  ∀ (x : LinkId) (s : State),
    let l := s.link x
    (l.abmDue = false → (∀ sd, l.sending = some sd → sd.progress ≠ .eomBegun) →
        (l.state = .off ∨ l.state = .hold → exec (.sendFill x) s = .next s.resume) ∧
          (l.state = .start →
            (l.fillsSent < 7 ∨ l.fillSeen = false →
                exec (.sendFill x) s =
                  .next (s.setLink x { l with fillsSent := min (l.fillsSent + 1) 8, lastSymbol := some .fill }).resume) ∧
              (7 ≤ l.fillsSent → l.fillSeen = true →
                exec (.sendFill x) s =
                  .next
                    (((s.setLink x
                            { l with
                              fillsSent := 8, state := .active, settle := 8, silence := true
                              lastSymbol := some .fill }).raiseMgr
                        (.linkUp x)).accountsEvent
                      [x] false).resume)) ∧
          (l.state = .active →
            (2 ≤ l.settle →
                exec (.sendFill x) s =
                  .next (s.setLink x { l with settle := l.settle - 1, lastSymbol := some .fill }).resume) ∧
              (l.settle = 1 →
                exec (.sendFill x) s =
                    .next ((s.setLink x { l with settle := 0, lastSymbol := some .fill }).transmitterChoose x).resume ∧
                  exec (.settleEnd x) s = exec (.sendFill x) s) ∧
              (l.settle = 0 → l.pendingGrants = 0 → l.sending = none →
                exec (.sendFill x) s = .next (s.setLink x { l with lastSymbol := some .fill }).resume) ∧
              ∀ g, l.settle = 0 → l.pendingGrants = g + 1 →
                exec (.sendGrant x) s =
                  .next (s.setLink x { l with pendingGrants := g, lastSymbol := some .grant }).resume)) ∧
      (l.state ≠ .active ∨ l.settle ≠ 0 ∨ l.sending ≠ none ∨ l.abmDue = true ∨ s.choice (.link x) = none →
        s.transmitterChoose x = s) ∧
      ∀ n cls run r, l.state = .active → l.settle = 0 → l.sending = none → l.abmDue = false →
        s.choice (.link x) = some (n, cls, run) → s.record n = some r →
        s.transmitterChoose x =
          (((s.setRun (.link x) run).setRecord n (some { r with state := .sending })).setLink x
            { l with sending := some { recId := n, progress := .header 1 } })

/-- R164, R165, R167, R169: the frame symbols of an ACTIVE, settled link with no ABM due and no GRANT pending. Header
bytes 1 to 6 are the record's fields, the hop limit less one. A payload byte comes from its cell; one that opens a cell
spends a credit, and with no credit FILL is sent and the byte stays due. Only the transmitter changes. When reserve ones
left over go on (`resume`) is the model's choice (log 29). -/
def Obligations.SendFrameBytes : Prop :=
  ∀ (x : LinkId) (n : RecId) (r : Record) (s : State), (s.link x).state = .active → (s.link x).settle = 0 →
    (s.link x).abmDue = false → (s.link x).pendingGrants = 0 → s.record n = some r →
    let l := s.link x
    let sends (sym : Symbol) (credit : Nat) (p : Progress) : Host.Outcome State Fault Refusal :=
      .next
        (s.setLink x
          { l with credit := credit, sending := some { recId := n, progress := p }, lastSymbol := some sym }).resume
    let control : Byte := (if r.cls = .bulk then 0x80 else 0x00) + BitVec.ofNat 8 (r.hops - 1).toNat
    (∀ i v, l.sending = some { recId := n, progress := .header i } →
        (i, v) ∈
          [(1, r.dstAddr), (2, r.srcAddr), (3, control), (4, r.tag), (5, hiByte r.length), (6, loByte r.length)] →
        exec (.sendHeaderByte x) s =
          sends (.data v) l.credit (if i = 6 then .payload 0 else .header (i + 1))) ∧
      ∀ j c, l.sending = some { recId := n, progress := .payload j } → r.cells[j / 32]? = some c →
        let v := s.mem.read (c.val * 32 + j % 32)
        let after : Progress := if j + 1 < r.length then .payload (j + 1) else .eom
        (j % 32 ≠ 0 → exec (.sendPayloadByte x) s = sends (.data v) l.credit after) ∧
          (∀ c', j % 32 = 0 → l.credit = c' + 1 → exec (.sendPayloadByte x) s = sends (.data v) c' after) ∧
          (j % 32 = 0 → l.credit = 0 →
            exec (.sendPayloadByte x) s = sends .fill 0 (.payload j) ∧
              exec (.sendFill x) s = exec (.sendPayloadByte x) s)

/-- R15, R169, R171: the EOM begins at a symbol time for a frame symbol; at its completion, in any link state if it has
begun, the record is discarded, the transmitter names none and chooses again. The completion of an ABM due clears it and
the transmitter chooses again. That EOM_SENT says which of the two moments it is, and that a completion may stand without
a beginning before it, is the model's choice (log 8); so is that the choice is made in the same step as the discard (log
32). When reserve ones left over go on (`resume`) is the model's choice (log 29). -/
def Obligations.SendEomAndAbm : Prop :=
  ∀ (x : LinkId) (s : State),
    let l := s.link x
    let atTime : Prop := l.state = .active ∧ l.settle = 0 ∧ l.abmDue = false ∧ l.pendingGrants = 0
    (∀ n r, l.sending = some { recId := n, progress := .eom } → s.record n = some r → atTime →
        exec (.eomSent x .begins) s =
          .next
            (s.setLink x
              { l with sending := some { recId := n, progress := .eomBegun }, lastSymbol := some .eom }).resume) ∧
      (∀ n, l.sending = some { recId := n, progress := .eomBegun } ∨
            l.sending = some { recId := n, progress := .eom } ∧ atTime →
        exec (.eomSent x .completes) s =
          .next
            (((s.setLink x { l with sending := none, lastSymbol := some .eom }).discard n).transmitterChoose x).resume) ∧
      (l.abmDue = true →
        exec (.sendAbm x) s =
          .next ((s.setLink x { l with abmDue := false, lastSymbol := some .abm }).transmitterChoose x).resume)

/-! ### Links: the receiver -/

/-- R151, R153, R155, R156: what a received FILL or GRANT does, and what the state decides for every symbol. OFF and HOLD
ignore the line. In START, FILL is seen, and with eight FILLs sent it takes the link into ACTIVE; every other valid symbol
is an ORDER fault. In ACTIVE, FILL restarts the silence timer, and GRANT also raises the credit held, or is a CREDIT fault
at 16. When reserve ones left over go on (`resume`) is the model's choice (log 29). -/
def Obligations.FillAndGrantReceived : Prop :=
  ∀ (x : LinkId) (b : Byte) (s : State),
    let l := s.link x
    let symbols : List Instr :=
      [.receiveGrant x, .receiveHeaderByte x b, .headerStep x b, .receivePayloadByte x b, .receiveEom x, .receiveAbm x]
    (l.state = .off ∨ l.state = .hold →
        exec (.receiveFill x) s = .next s.resume ∧ (∀ w, exec (.symbolError x w) s = .next s.resume) ∧
          ∀ c, c ∈ symbols → exec c s = .next s.resume) ∧
      (l.state = .start →
        (∀ c, c ∈ symbols → exec c s = .next (s.linkFault x .order).resume) ∧
          (l.fillsSent ≠ 8 → exec (.receiveFill x) s = .next (s.setLink x { l with fillSeen := true }).resume) ∧
          (l.fillsSent = 8 →
            exec (.receiveFill x) s =
              .next
                (((s.setLink x
                        { l with fillSeen := true, state := .active, settle := 8, silence := true }).raiseMgr
                    (.linkUp x)).accountsEvent
                  [x] false).resume)) ∧
      (l.state = .active →
        exec (.receiveFill x) s = .next (s.setLink x { l with silence := true }).resume ∧
          (l.credit < 16 →
            exec (.receiveGrant x) s = .next (s.setLink x { l with credit := l.credit + 1, silence := true }).resume) ∧
          (16 ≤ l.credit → exec (.receiveGrant x) s = .next (s.linkFault x .credit).resume))

/-- R5, R50, R51, R173, R174: a data symbol in ACTIVE opens a message and is then the next header byte, held by the
receiver only. The sixth makes the header step: a length of 0 or above 1024 is a FRAME fault; otherwise the target is the
class found with room, or the UQ with the reason, or DROP with the reason dropped; a place is reserved in it and the
lowest-numbered free record is made in the link's slot, with no cell, its class and hop limit by 11.4. Nothing else
changes. That RECEIVE_HEADER_BYTE with the sixth byte is HEADER_STEP is the model's choice (log 4). When reserve ones left
over go on (`resume`) is the model's choice (log 29). -/
def Obligations.HeaderReceived : Prop :=
  ∀ (x : LinkId) (b : Byte) (s : State), (s.link x).state = .active →
    let l := s.link x
    (l.isOpen = false →
        exec (.receiveHeaderByte x b) s =
          .next (s.setLink x { l with isOpen := true, silence := true, hdr := [b] }).resume) ∧
      (l.isOpen = true → l.hdr.length < 5 →
        exec (.receiveHeaderByte x b) s = .next (s.setLink x { l with silence := true, hdr := l.hdr ++ [b] }).resume) ∧
      ∀ dst src control tag hi c, l.isOpen = true → l.hdr = [dst, src, control, tag, hi] →
        c = .headerStep x b ∨ c = .receiveHeaderByte x b →
        let len := hi.toNat * 256 + b.toNat
        let cls : MsgClass := if control.getLsbD 7 = true then .bulk else .express
        let hops : BitVec 4 := control.extractLsb' 0 4
        let redirected (why : Reason) : Target × Option Reason :=
          if s.uq.recs.length + s.uq.reserved < 8 then (.uq, some why) else (.drop, none)
        let aimed : Target × Option Reason :=
          match s.lookup dst hops with
          | .noRoute => redirected .noRoute
          | .hops => redirected .hops
          | .output d =>
            let q : QueueId := { dest := d, cls := cls }
            if (s.qclass q).recs.length + (s.qclass q).reserved < (s.qclass q).depth then (.queue q, none)
            else redirected .full
        let placed : State :=
          match aimed.1 with
          | .queue q => s.setClass q { s.qclass q with reserved := (s.qclass q).reserved + 1 }
          | .uq => s.setUq { s.uq with reserved := s.uq.reserved + 1 }
          | .drop => s
        (len = 0 ∨ 1024 < len → exec c s = .next (s.linkFault x .frame).resume) ∧
          ∀ n, 1 ≤ len → len ≤ 1024 → s.record n = none → (∀ i, i < n → s.record i ≠ none) →
            exec c s =
              .next
                (((placed.setRecord n
                        (some
                          { origin := .link x, srcAddr := src, dstAddr := dst, tag := tag, cls := cls,
                            hops := hops, length := len, filled := 0, cells := [], target := aimed.1,
                            reason := aimed.2, state := .assembling, resends := 0 })).setSlot
                    (.link x) (some n)).setLink
                  x { l with silence := true, hdr := [dst, src, control, tag, hi, b] }).resume

/-- R8, R32, R175: a payload byte in ACTIVE of a message whose header is complete. It finds the reserve ones left of the
link made (`u`; the model's choice, log 29). Beyond the length, a FRAME fault, before any other test. A byte that opens a
cell takes the oldest reserved cell, with which the link may reserve again, or is a CREDIT fault where there is none. The
byte is stored at its place in its cell and filled rises by one; every other byte of the pool reads as before. When
reserve ones left over go on (`resume`) is the model's choice (log 29). -/
def Obligations.PayloadReceived : Prop :=
  ∀ (x : LinkId) (b : Byte) (n : RecId) (r : Record) (s : State), (s.link x).state = .active →
    (s.link x).isOpen = true → (s.link x).hdr.length = 6 → s.slot (.link x) = some n → s.record n = some r →
    s.mem.wf = true →
    let c := Instr.receivePayloadByte x b
    let u := s.finish x
    (r.length ≤ r.filled → exec c s = .next (u.linkFault x .frame).resume) ∧
      (r.filled < r.length → r.filled % 32 = 0 → (u.link x).reserved = [] →
        exec c s = .next (u.linkFault x .credit).resume) ∧
      (∀ cell rest, r.filled < r.length → r.filled % 32 = 0 → (u.link x).reserved = cell :: rest →
        r.cells.length = r.filled / 32 →
        ∃ m : State, exec c s = .next (m.accountsEvent [x] false).resume ∧
          m.mem.read (cell.val * 32) = b ∧ (∀ a, a ≠ cell.val * 32 → m.mem.read a = s.mem.read a) ∧
          m.mem.wf = true ∧
          (∀ i,
            m.record i =
              if i = n then some { r with cells := r.cells ++ [cell], filled := r.filled + 1 } else s.record i) ∧
          m.link x = { u.link x with reserved := rest, silence := true } ∧ (∀ y, y ≠ x → m.link y = u.link y) ∧
          m = { u with mem := m.mem, records := m.records, links := m.links }) ∧
      ∀ cell, r.filled < r.length → r.filled % 32 ≠ 0 → r.cells[r.filled / 32]? = some cell →
        let a := cell.val * 32 + r.filled % 32
        ∃ m : State, exec c s = .next m.resume ∧ m.mem.read a = b ∧
          (∀ a', a' ≠ a → m.mem.read a' = s.mem.read a') ∧
          m.mem.wf = true ∧
          (∀ i, m.record i = if i = n then some { r with filled := r.filled + 1 } else s.record i) ∧
          m.link x = { u.link x with silence := true } ∧ (∀ y, y ≠ x → m.link y = u.link y) ∧
          m = { u with mem := m.mem, records := m.records, links := m.links }

/-- R151, R176, R177, R57: the end of a message in ACTIVE. With none open, EOM and ABM are ORDER faults; an EOM before
header byte 6 is a FRAME fault. An EOM ends the message: the whole record is committed, or dropped with UNDELIVERABLE
DROPPED; a short one is discarded with LINK DISCARD. An ABM ends it whatever its progress, with LINK DISCARD. When reserve
ones left over go on (`resume`) is the model's choice (log 29). -/
def Obligations.EndingsReceived : Prop :=
  ∀ (x : LinkId) (s : State), (s.link x).state = .active →
    let l := s.link x
    let done := s.setLink x { l with isOpen := false, hdr := [], silence := true }
    (l.isOpen = false →
        exec (.receiveEom x) s = .next (s.linkFault x .order).resume ∧
          exec (.receiveAbm x) s = .next (s.linkFault x .order).resume) ∧
      (l.isOpen = true →
        (l.hdr.length < 6 → exec (.receiveEom x) s = .next (s.linkFault x .frame).resume) ∧
          (s.slot (.link x) = none → exec (.receiveAbm x) s = .next (done.raiseMgr .linkDiscard).resume) ∧
          ∀ n r, s.slot (.link x) = some n → s.record n = some r →
            exec (.receiveAbm x) s = .next ((done.discard n).raiseMgr .linkDiscard).resume ∧
              (6 ≤ l.hdr.length →
                (r.filled = r.length → r.target ≠ .drop → exec (.receiveEom x) s = .next (done.commit n).resume) ∧
                  (r.filled = r.length → r.target = .drop →
                    exec (.receiveEom x) s = .next ((done.discard n).raiseMgr .undeliverableDropped).resume) ∧
                  (r.filled ≠ r.length →
                    exec (.receiveEom x) s = .next ((done.discard n).raiseMgr .linkDiscard).resume)))

/-- R16, R20, R33, R148, R156, R157, R158: a fault, and the end of HOLD. A symbol error faults SYMBOL and the running silence
timer SILENCE. In OFF and HOLD nothing faults. In START and ACTIVE the inbound message is closed and its record discarded,
the reserved list returned after its cells, the sending record returned with resends raised or moved to the UQ or dropped,
and the link enters HOLD; LINK x DOWN is raised from ACTIVE; then the freed places and cells are passed on (see
`DiscardEffect` and `ReservationsSettle`). The order of these steps is the model's reading of R157 and R20, marked unsafe in
log 14. The fault finds the reserve ones left of the link made (`v`), and returns their cells: R153 says it of a fault that
meets the entry to ACTIVE, and of any other fault it is the model's choice, marked unsafe in log 29. At the end of HOLD the
link enters START or OFF by its hold exit and its auto-restart field. When reserve ones left over go on (`resume`) is the
model's choice (log 29). -/
def Obligations.FaultAndHold : Prop :=
  ∀ (x : LinkId) (kind : LinkFault) (s : State),
    let l := s.link x
    (∀ w, decodeSymbol w = none → exec (.symbolError x w) s = .next (s.linkFault x .symbol).resume) ∧
      (l.state = .active → l.silence = true → exec (.silence x) s = .next (s.linkFault x .silence).resume) ∧
      (l.state = .off ∨ l.state = .hold → s.linkFault x kind = s) ∧
      (l.state = .start ∨ l.state = .active →
        let v := s.finish x
        let l := v.link x
        let closed :=
          match v.slot (.link x) with
          | none => v
          | some n => v.discardOne n
        let held :=
          ((closed.setFree (closed.free ++ l.reserved)).setUsed (.link x)
              (closed.used (.link x) - l.reserved.length)).setLink x
            { l with
              isOpen := false, hdr := [], reserved := [], pendingGrants := 0, credit := 0, settle := 0, silence := false,
              state := .hold, holdTimer := true, holdExit := .autoRestart, abmDue := false, sending := none,
              lastFault := kind }
        let down (u : State) : State := if l.state = .active then u.raiseMgr (.linkDown x) else u
        let inbound := (v.slot (.link x)).toList
        let more := !l.reserved.isEmpty
        ((closed.link x).sending = none →
            ∃ back, Returns v inbound inbound more back ∧ s.linkFault x kind = (down held).passOn v back) ∧
          ∀ sd r, (closed.link x).sending = some sd → closed.record sd.recId = some r →
            (r.resends < l.ctrl.resendLimit →
                ∃ back, Returns v inbound inbound more back ∧
                  s.linkFault x kind =
                    (down (held.setRecord sd.recId (some { r with resends := r.resends + 1, state := .queued }))).passOn
                      v back) ∧
              (l.ctrl.resendLimit ≤ r.resends → closed.uq.recs.length + closed.uq.reserved < 8 →
                let unqueued : State :=
                  match r.target with
                  | .queue q => held.setClass q { held.qclass q with recs := (held.qclass q).recs.erase sd.recId }
                  | .uq => held.setUq { held.uq with recs := held.uq.recs.erase sd.recId }
                  | .drop => held
                let out :=
                  unqueued.setRecord sd.recId
                    (some { r with target := .uq, reason := some .resends, state := .queued })
                ∃ back, Returns v inbound (inbound ++ [sd.recId]) more back ∧
                  s.linkFault x kind =
                    (down
                        ((out.setUq { out.uq with recs := out.uq.recs ++ [sd.recId] }).raiseMgr .undeliverable)).passOn
                      v back) ∧
              (l.ctrl.resendLimit ≤ r.resends → 8 ≤ closed.uq.recs.length + closed.uq.reserved →
                ∃ back, Returns v (inbound ++ [sd.recId]) (inbound ++ [sd.recId]) more back ∧
                  s.linkFault x kind =
                    (down ((held.discardOne sd.recId).raiseMgr .undeliverableDropped)).passOn v back)) ∧
      (l.state = .hold → l.holdTimer = true →
        (l.holdExit = .start ∨ l.ctrl.autoRestart = true →
            exec (.holdEnd x) s =
              .next
                (s.setLink x
                  { l with
                    state := .start, opRate := l.ctrl.rate, fillsSent := 0, fillSeen := false
                    holdTimer := false }).resume) ∧
          (l.holdExit = .autoRestart → l.ctrl.autoRestart = false →
            exec (.holdEnd x) s = .next (s.setLink x { l with state := .off, holdTimer := false }).resume))

/-- R148, 11.8, 11.9: the ten bits of a symbol. The four control symbols and the six header bytes of the example have the
words of the manual. Every symbol's word decodes to it, and a word that decodes to a symbol is its word. A valid word with
any one bit turned is a symbol error. -/
def Obligations.SymbolCode : Prop :=
  encodeSymbol .fill = 0b1111000010#10 ∧ encodeSymbol .grant = 0b1110100100#10 ∧ encodeSymbol .eom = 0b1110000110#10 ∧
    encodeSymbol .abm = 0b1101101000#10 ∧ encodeSymbol (.data 0x41) = 0b0010000011#10 ∧
    encodeSymbol (.data 0xF0) = 0b0111100001#10 ∧ encodeSymbol (.data 0x81) = 0b0100000011#10 ∧
    encodeSymbol (.data 0x07) = 0b0000001110#10 ∧ encodeSymbol (.data 0x00) = 0b0000000001#10 ∧
    encodeSymbol (.data 0x64) = 0b0011001000#10 ∧ (∀ sym, decodeSymbol (encodeSymbol sym) = some sym) ∧
    (∀ w sym, decodeSymbol w = some sym → encodeSymbol sym = w) ∧
    ∀ (w : SymbolWord) (i : Fin 10), decodeSymbol w ≠ none → decodeSymbol (w ^^^ BitVec.twoPow 10 i.val) = none

/-! ### Laws of the accounts -/

/-- R27: the headroom of a source, floored at 0. Under the laws of the accounts it is at most 512, and a claim of n cells, n
at least 1, is granted exactly when n is at most the headroom. Where the charges are exact it never exceeds the free cell
count, so a granted claim finds its cells on the free list. -/
def Obligations.HeadroomGrants : Prop :=
  ∀ (p : Party) (n : Nat) (s : State), AccountLaws s → 1 ≤ n →
    s.headroom p =
        min (s.lim p - s.used p) ((s.guar p - s.used p) + (512 - s.sumGuarantee - s.sharedUsage)) ∧
      (s.grants p n = true ↔ n ≤ s.headroom p) ∧ s.headroom p ≤ 512 ∧
      (CellsConserved s → UsageExact s → s.headroom p ≤ s.free.length)

/-- R3, R4, R28, R30, R31, R37 to R39: what an event at the accounts does, for the links `ls` and, with `watches`, the CELLS
watches. In every state: the links take cells off the front of the free list, each cell to the tail of its link's reserved
list, with one GRANT pending and one unit of usage for each, and nothing else changes but what follows. CELLS LOW is raised
exactly when the reserve ones take the free cell count below a non-zero low mark it was not below (R4). Each port stands, or,
if it holds a CELLS watch whose claim was granted before the event, its watch becomes absent with ROOM raised; a raise joins
the late raises of an open snapshot whose part has the kind (R123, R124). A link that took cells is ACTIVE, and is within its
window, its limit and the shared region after it; a link stands that is neither asked nor has reserve ones left from before.
Reserve ones are left to be made, of those links, only where the command that waits next then comes between (log 29, the
model's choice); and only a command comes between, as itself or as the in byte that makes its step, that can be a claim, a
discard or a guarantee or limit write, or can let the other link reserve (R28, R31). Where the accounts are sound: no such
link still meets the three conditions of R30 (ACTIVE, below its window, granted one more cell), but for those so left; and a
CELLS watch whose claim is granted after it, and so was granted when it was judged, is satisfied. What every command ends
with is this event for no link and no watch, so that reserve ones left from before go on; with none left it is the state
itself. What a fault, a disable, a payload byte or a LINKCTRL write of a link starts with is the same for that link alone
with no command waiting: all its reserve ones left from before are made. R153 says that of a fault that meets the entry to
ACTIVE; of any other fault and of the other three it is the model's choice (log 29). -/
def Obligations.ReservationsSettle : Prop :=
  (∀ s : State, s.resume = s.accountsEvent [] false ∧ (s.owed = [] → s.resume = s)) ∧
  (∀ (x : LinkId) (s : State),
    s.finish x =
        { State.resume { s with pending := [], owed := s.owed.filter (· == x) } with
          pending := s.pending, owed := s.owed.filter (· != x) } ∧
      (x ∉ s.owed → s.finish x = s)) ∧
  (∀ s : State, s.comesBetween = true →
    let named : Instr → Bool
      | .post _ _ _ | .selectRise _ | .postTimeout _ | .release _ _ | .guaranteeWrite _ _ _ | .limitWrite _ _ _
      | .writeItem _ _ _ | .linkDisable _ _ _ | .fence _ _ _ | .purge _ _ _ | .drain _ _ _ | .sendFill _ | .eomSent _ .completes
      | .receiveFill _ | .receiveGrant _ | .receiveHeaderByte _ _ | .headerStep _ _ | .receivePayloadByte _ _ | .receiveEom _
      | .receiveAbm _ | .symbolError _ _ | .silence _ => true
      | _ => false
    ∃ c, named c = true ∧
      (s.pending.head? = some c ∨
        ∃ k b early,
          s.pending.head? = some (.inByteCompletion k b early) ∧ commandOf k b early (s.byteStep k b) = some c)) ∧
  ∀ (ls : List LinkId) (watches : Bool) (s : State),
    let t := s.accountsEvent ls watches
    let low : Prop := s.lowMark ≠ 0 ∧ s.lowMark ≤ s.free.length ∧ t.free.length < s.lowMark
    let noted (p : Port) : Port :=
      if low then
        { p with
          snapshot := p.snapshot.map fun sn => { sn with mgr := sn.mgr.map fun m => (m.1, m.2 ||| (m.1 &&& 0x80)) } }
      else p
    let stays (k : PortId) : Prop := t.port k = noted (s.port k)
    let satisfied (k : PortId) : Prop :=
      t.port k =
        noted
          { s.port k with
            watch := .absent, hostSet := (s.port k).hostSet ||| 0x02
            snapshot := (s.port k).snapshot.map fun sn => { sn with hostLate := sn.hostLate ||| (sn.host &&& 0x02) } }
    OnlyAccounts s t ∧
      (∃ taken : List (LinkId × CellId),
        s.free = taken.map Prod.snd ++ t.free ∧
          ∀ x,
            let cs := (taken.filter fun c => c.1 = x).map Prod.snd
            t.link x =
                { s.link x with
                  reserved := (s.link x).reserved ++ cs
                  pendingGrants := (s.link x).pendingGrants + cs.length } ∧
              t.used (.link x) = s.used (.link x) + cs.length) ∧
      t.mgrSet = (if low then s.mgrSet ||| 0x80 else s.mgrSet) ∧
      (∀ k, stays k ∨
        satisfied k ∧ watches = true ∧ ∃ n, (s.port k).watch = .cells n ∧ 1 ≤ n ∧ s.grants (.host k) n = true) ∧
      (∀ y, y ∉ ls → y ∉ s.owed → t.link y = s.link y) ∧ t.ahead = s.ahead ∧
      (∀ x, x ∈ t.owed → t.comesBetween = true ∧ (x ∈ ls ∨ x ∈ s.owed)) ∧
      (∀ x, (t.link x).reserved ≠ (s.link x).reserved →
        (t.link x).state = .active ∧ (t.link x).reserved.length ≤ (t.link x).ctrl.window ∧
          t.used (.link x) ≤ t.lim (.link x) ∧ t.sumGuarantee + t.sharedUsage ≤ 512) ∧
      (AccountLaws s → CellsConserved s → UsageExact s →
        (∀ x, x ∈ ls ∨ x ∈ s.owed →
            (t.link x).state = .active → (t.link x).reserved.length < (t.link x).ctrl.window →
            t.grants (.link x) 1 = true → t.comesBetween = true ∧ x ∈ t.owed) ∧
          ∀ k n, watches = true → (s.port k).watch = .cells n → 1 ≤ n → t.grants (.host k) n = true → satisfied k)

/-! ### Invariants that every step keeps -/

/-- R1: every step keeps each of the 512 cells in one place only: the free list, one record in use or one reserved list. -/
def Obligations.CellsConservedKept : Prop :=
  ∀ s t : State, CellsConserved s → step s = .next t → CellsConserved t

/-- R23, R25: every step keeps G[s] ≤ L[s] ≤ 512 for each source, the sum of the guarantees within 512 and the shared usage
within the shared capacity. -/
def Obligations.AccountLawsKept : Prop :=
  ∀ s t : State, AccountLaws s → step s = .next t → AccountLaws t

/-- R30, R31: every step of a sound exchange leaves no link that meets the three conditions of R30 (ACTIVE, below its window,
granted one more cell), but for those whose reserve ones are left to the claim, discard or write that waits next (log 29, the
model's choice): whatever lets a link reserve is followed by its reserve ones. -/
def Obligations.ReservesKept : Prop :=
  ∀ s t : State, Sound s → ReservesDone s → step s = .next t → ReservesDone t

/-- R42, R62, R70, R138, R139: every step keeps the route addresses unique, the depth limits within the depth budget, and
every item and run counter in its range; and the bytes of the pool keep their canonical form. -/
def Obligations.ItemsAndMemoryKept : Prop :=
  ∀ s t : State, step s = .next t → (ItemsLegal s → ItemsLegal t) ∧ (s.mem.wf = true → t.mem.wf = true)

/-- R83, R88, R99, R107, R115, R121, R123 to R125: every step keeps what a port holds of a transaction to that transaction,
the manager's port unfenced, a vacant role's mask empty, UQ loans with the manager, and the kinds of a snapshot set. -/
def Obligations.PortsKept : Prop :=
  ∀ s t : State, PortsSound s → step s = .next t → PortsSound t

/-- R149, R152, R155 to R158, R160, R173: every step keeps what a link holds in each of its states. -/
def Obligations.LinksKept : Prop :=
  ∀ s t : State, (∀ x, LinkLaws (s.link x)) → step s = .next t → ∀ x, LinkLaws (t.link x)

/-- The reset state meets every invariant of the statements here: it is sound, no link could reserve one more cell, and the
model's marks for a POST that waits next are empty. -/
def Obligations.ResetSound : Prop := Sound State.reset ∧ ReservesDone State.reset

/-- R1, R9, R23, R61, R62: every step keeps the exchange sound as a whole. -/
def Obligations.SoundKept : Prop :=
  ∀ s t : State, Sound s → step s = .next t → Sound t

/-- 1.2, R62: in a sound state every step goes on: a POST or a header step that needs a record finds one, since at most 124
can be in use, and no command is refused. -/
def Obligations.SoundStepsGoOn : Prop :=
  ∀ s : State, Sound s → StepSafe s
end

