-- ==== Sys2Proof/Laws/State.lean ====
section
/-! SUPPORT. One lemma per field per update of the state: what each update leaves as it was, and what it puts in its own
place. Later proofs cite these and unfold no record update. -/

namespace Sys2Proof

theorem Party.num_inj {p q : Party} : p.num = q.num ↔ p = q := by
  constructor
  · intro h
    cases p <;> cases q <;> simp only [Party.num, Fin.mk.injEq] at h
    · exact congrArg Party.host (Fin.ext h)
    · omega
    · omega
    · exact congrArg Party.link (Fin.ext (by omega))
  · rintro rfl; rfl

theorem MsgClass.num_inj {c d : MsgClass} : c.num = d.num ↔ c = d := by cases c <;> cases d <;> decide

theorem QueueId.num_inj {c d : QueueId} : c.num = d.num ↔ c = d := by
  constructor
  · intro h
    obtain ⟨p, m⟩ := c
    obtain ⟨q, n⟩ := d
    simp only [QueueId.num, Fin.mk.injEq] at h
    have hm : m.num = n.num := Fin.ext (by omega)
    have hp : p.num = q.num := Fin.ext (by omega)
    rw [Party.num_inj.mp hp, MsgClass.num_inj.mp hm]
  · rintro rfl; rfl

@[simp] theorem Party.ofNum_num (p : Party) : Party.ofNum p.num = p := by
  cases p with
  | host k => simp [Party.ofNum, Party.num]
  | link x => simp [Party.ofNum, Party.num]

@[simp] theorem Party.num_ofNum (n : Fin 6) : (Party.ofNum n).num = n := by
  revert n; decide

@[simp] theorem QueueId.num_ofNum (n : Fin 12) : (QueueId.ofNum n).num = n := by
  revert n; decide

@[simp] theorem QueueId.ofNum_num (q : QueueId) : QueueId.ofNum q.num = q :=
  QueueId.num_inj.mp (QueueId.num_ofNum _)

theorem vget_map {α β : Type} {n : Nat} (f : α → β) (v : Vector α n) (i : Fin n) : vget (v.map f) i = f (vget v i) := by
  simp [vget]

namespace Machine

variable (s : State)

/-! ### setPort -/

@[simp] theorem State.setPort_mem (k : PortId) (p : Port) : (s.setPort k p).mem = s.mem := rfl
@[simp] theorem State.setPort_free (k : PortId) (p : Port) : (s.setPort k p).free = s.free := rfl
@[simp] theorem State.setPort_records (k : PortId) (p : Port) : (s.setPort k p).records = s.records := rfl
@[simp] theorem State.setPort_slots (k : PortId) (p : Port) : (s.setPort k p).slots = s.slots := rfl
@[simp] theorem State.setPort_guarantee (k : PortId) (p : Port) : (s.setPort k p).guarantee = s.guarantee := rfl
@[simp] theorem State.setPort_limit (k : PortId) (p : Port) : (s.setPort k p).limit = s.limit := rfl
@[simp] theorem State.setPort_usage (k : PortId) (p : Port) : (s.setPort k p).usage = s.usage := rfl
@[simp] theorem State.setPort_routes (k : PortId) (p : Port) : (s.setPort k p).routes = s.routes := rfl
@[simp] theorem State.setPort_classes (k : PortId) (p : Port) : (s.setPort k p).classes = s.classes := rfl
@[simp] theorem State.setPort_uq (k : PortId) (p : Port) : (s.setPort k p).uq = s.uq := rfl
@[simp] theorem State.setPort_runCount (k : PortId) (p : Port) : (s.setPort k p).runCount = s.runCount := rfl
@[simp] theorem State.setPort_runLimit (k : PortId) (p : Port) : (s.setPort k p).runLimit = s.runLimit := rfl
@[simp] theorem State.setPort_links (k : PortId) (p : Port) : (s.setPort k p).links = s.links := rfl
@[simp] theorem State.setPort_mgrSet (k : PortId) (p : Port) : (s.setPort k p).mgrSet = s.mgrSet := rfl
@[simp] theorem State.setPort_mgrMask (k : PortId) (p : Port) : (s.setPort k p).mgrMask = s.mgrMask := rfl
@[simp] theorem State.setPort_manager (k : PortId) (p : Port) : (s.setPort k p).manager = s.manager := rfl
@[simp] theorem State.setPort_lowMark (k : PortId) (p : Port) : (s.setPort k p).lowMark = s.lowMark := rfl
@[simp] theorem State.setPort_postTimeout (k : PortId) (p : Port) : (s.setPort k p).postTimeout = s.postTimeout := rfl
@[simp] theorem State.setPort_ties (k : PortId) (p : Port) : (s.setPort k p).ties = s.ties := rfl
@[simp] theorem State.setPort_owed (k : PortId) (p : Port) : (s.setPort k p).owed = s.owed := rfl
@[simp] theorem State.setPort_ahead (k : PortId) (p : Port) : (s.setPort k p).ahead = s.ahead := rfl
@[simp] theorem State.setPort_pending (k : PortId) (p : Port) : (s.setPort k p).pending = s.pending := rfl
@[simp] theorem State.setPort_link (k : PortId) (p : Port) (y : LinkId) : (s.setPort k p).link y = s.link y := rfl
@[simp] theorem State.setPort_record (k : PortId) (p : Port) (i : RecId) : (s.setPort k p).record i = s.record i := rfl
@[simp] theorem State.setPort_slot (k : PortId) (p : Port) (q : Party) : (s.setPort k p).slot q = s.slot q := rfl
@[simp] theorem State.setPort_qclass (k : PortId) (p : Port) (q : QueueId) : (s.setPort k p).qclass q = s.qclass q := rfl
@[simp] theorem State.setPort_used (k : PortId) (p : Port) (q : Party) : (s.setPort k p).used q = s.used q := rfl
@[simp] theorem State.setPort_run (k : PortId) (p : Port) (q : Party) : (s.setPort k p).run q = s.run q := rfl
@[simp] theorem State.setPort_guar (k : PortId) (p : Port) (q : Party) : (s.setPort k p).guar q = s.guar q := rfl
@[simp] theorem State.setPort_lim (k : PortId) (p : Port) (q : Party) : (s.setPort k p).lim q = s.lim q := rfl
@[simp] theorem State.setPort_port (k : PortId) (p : Port) (j : PortId) :
    (s.setPort k p).port j = if k = j then p else s.port j := by
  simp [State.setPort, State.port]

/-! ### setLink -/

@[simp] theorem State.setLink_mem (x : LinkId) (l : Link) : (s.setLink x l).mem = s.mem := rfl
@[simp] theorem State.setLink_free (x : LinkId) (l : Link) : (s.setLink x l).free = s.free := rfl
@[simp] theorem State.setLink_records (x : LinkId) (l : Link) : (s.setLink x l).records = s.records := rfl
@[simp] theorem State.setLink_slots (x : LinkId) (l : Link) : (s.setLink x l).slots = s.slots := rfl
@[simp] theorem State.setLink_guarantee (x : LinkId) (l : Link) : (s.setLink x l).guarantee = s.guarantee := rfl
@[simp] theorem State.setLink_limit (x : LinkId) (l : Link) : (s.setLink x l).limit = s.limit := rfl
@[simp] theorem State.setLink_usage (x : LinkId) (l : Link) : (s.setLink x l).usage = s.usage := rfl
@[simp] theorem State.setLink_routes (x : LinkId) (l : Link) : (s.setLink x l).routes = s.routes := rfl
@[simp] theorem State.setLink_classes (x : LinkId) (l : Link) : (s.setLink x l).classes = s.classes := rfl
@[simp] theorem State.setLink_uq (x : LinkId) (l : Link) : (s.setLink x l).uq = s.uq := rfl
@[simp] theorem State.setLink_runCount (x : LinkId) (l : Link) : (s.setLink x l).runCount = s.runCount := rfl
@[simp] theorem State.setLink_runLimit (x : LinkId) (l : Link) : (s.setLink x l).runLimit = s.runLimit := rfl
@[simp] theorem State.setLink_ports (x : LinkId) (l : Link) : (s.setLink x l).ports = s.ports := rfl
@[simp] theorem State.setLink_mgrSet (x : LinkId) (l : Link) : (s.setLink x l).mgrSet = s.mgrSet := rfl
@[simp] theorem State.setLink_mgrMask (x : LinkId) (l : Link) : (s.setLink x l).mgrMask = s.mgrMask := rfl
@[simp] theorem State.setLink_manager (x : LinkId) (l : Link) : (s.setLink x l).manager = s.manager := rfl
@[simp] theorem State.setLink_lowMark (x : LinkId) (l : Link) : (s.setLink x l).lowMark = s.lowMark := rfl
@[simp] theorem State.setLink_postTimeout (x : LinkId) (l : Link) : (s.setLink x l).postTimeout = s.postTimeout := rfl
@[simp] theorem State.setLink_ties (x : LinkId) (l : Link) : (s.setLink x l).ties = s.ties := rfl
@[simp] theorem State.setLink_owed (x : LinkId) (l : Link) : (s.setLink x l).owed = s.owed := rfl
@[simp] theorem State.setLink_ahead (x : LinkId) (l : Link) : (s.setLink x l).ahead = s.ahead := rfl
@[simp] theorem State.setLink_pending (x : LinkId) (l : Link) : (s.setLink x l).pending = s.pending := rfl
@[simp] theorem State.setLink_port (x : LinkId) (l : Link) (j : PortId) : (s.setLink x l).port j = s.port j := rfl
@[simp] theorem State.setLink_record (x : LinkId) (l : Link) (i : RecId) : (s.setLink x l).record i = s.record i := rfl
@[simp] theorem State.setLink_slot (x : LinkId) (l : Link) (q : Party) : (s.setLink x l).slot q = s.slot q := rfl
@[simp] theorem State.setLink_qclass (x : LinkId) (l : Link) (q : QueueId) : (s.setLink x l).qclass q = s.qclass q := rfl
@[simp] theorem State.setLink_used (x : LinkId) (l : Link) (q : Party) : (s.setLink x l).used q = s.used q := rfl
@[simp] theorem State.setLink_run (x : LinkId) (l : Link) (q : Party) : (s.setLink x l).run q = s.run q := rfl
@[simp] theorem State.setLink_guar (x : LinkId) (l : Link) (q : Party) : (s.setLink x l).guar q = s.guar q := rfl
@[simp] theorem State.setLink_lim (x : LinkId) (l : Link) (q : Party) : (s.setLink x l).lim q = s.lim q := rfl
@[simp] theorem State.setLink_link (x : LinkId) (l : Link) (y : LinkId) :
    (s.setLink x l).link y = if x = y then l else s.link y := by
  simp [State.setLink, State.link]

/-! ### setRecord -/

@[simp] theorem State.setRecord_mem (n : RecId) (r : Option Record) : (s.setRecord n r).mem = s.mem := rfl
@[simp] theorem State.setRecord_free (n : RecId) (r : Option Record) : (s.setRecord n r).free = s.free := rfl
@[simp] theorem State.setRecord_slots (n : RecId) (r : Option Record) : (s.setRecord n r).slots = s.slots := rfl
@[simp] theorem State.setRecord_guarantee (n : RecId) (r : Option Record) : (s.setRecord n r).guarantee = s.guarantee := rfl
@[simp] theorem State.setRecord_limit (n : RecId) (r : Option Record) : (s.setRecord n r).limit = s.limit := rfl
@[simp] theorem State.setRecord_usage (n : RecId) (r : Option Record) : (s.setRecord n r).usage = s.usage := rfl
@[simp] theorem State.setRecord_routes (n : RecId) (r : Option Record) : (s.setRecord n r).routes = s.routes := rfl
@[simp] theorem State.setRecord_classes (n : RecId) (r : Option Record) : (s.setRecord n r).classes = s.classes := rfl
@[simp] theorem State.setRecord_uq (n : RecId) (r : Option Record) : (s.setRecord n r).uq = s.uq := rfl
@[simp] theorem State.setRecord_runCount (n : RecId) (r : Option Record) : (s.setRecord n r).runCount = s.runCount := rfl
@[simp] theorem State.setRecord_runLimit (n : RecId) (r : Option Record) : (s.setRecord n r).runLimit = s.runLimit := rfl
@[simp] theorem State.setRecord_ports (n : RecId) (r : Option Record) : (s.setRecord n r).ports = s.ports := rfl
@[simp] theorem State.setRecord_links (n : RecId) (r : Option Record) : (s.setRecord n r).links = s.links := rfl
@[simp] theorem State.setRecord_mgrSet (n : RecId) (r : Option Record) : (s.setRecord n r).mgrSet = s.mgrSet := rfl
@[simp] theorem State.setRecord_mgrMask (n : RecId) (r : Option Record) : (s.setRecord n r).mgrMask = s.mgrMask := rfl
@[simp] theorem State.setRecord_manager (n : RecId) (r : Option Record) : (s.setRecord n r).manager = s.manager := rfl
@[simp] theorem State.setRecord_lowMark (n : RecId) (r : Option Record) : (s.setRecord n r).lowMark = s.lowMark := rfl
@[simp] theorem State.setRecord_postTimeout (n : RecId) (r : Option Record) : (s.setRecord n r).postTimeout = s.postTimeout := rfl
@[simp] theorem State.setRecord_ties (n : RecId) (r : Option Record) : (s.setRecord n r).ties = s.ties := rfl
@[simp] theorem State.setRecord_owed (n : RecId) (r : Option Record) : (s.setRecord n r).owed = s.owed := rfl
@[simp] theorem State.setRecord_ahead (n : RecId) (r : Option Record) : (s.setRecord n r).ahead = s.ahead := rfl
@[simp] theorem State.setRecord_pending (n : RecId) (r : Option Record) : (s.setRecord n r).pending = s.pending := rfl
@[simp] theorem State.setRecord_port (n : RecId) (r : Option Record) (j : PortId) : (s.setRecord n r).port j = s.port j := rfl
@[simp] theorem State.setRecord_link (n : RecId) (r : Option Record) (y : LinkId) : (s.setRecord n r).link y = s.link y := rfl
@[simp] theorem State.setRecord_slot (n : RecId) (r : Option Record) (q : Party) : (s.setRecord n r).slot q = s.slot q := rfl
@[simp] theorem State.setRecord_qclass (n : RecId) (r : Option Record) (q : QueueId) : (s.setRecord n r).qclass q = s.qclass q := rfl
@[simp] theorem State.setRecord_used (n : RecId) (r : Option Record) (q : Party) : (s.setRecord n r).used q = s.used q := rfl
@[simp] theorem State.setRecord_run (n : RecId) (r : Option Record) (q : Party) : (s.setRecord n r).run q = s.run q := rfl
@[simp] theorem State.setRecord_guar (n : RecId) (r : Option Record) (q : Party) : (s.setRecord n r).guar q = s.guar q := rfl
@[simp] theorem State.setRecord_lim (n : RecId) (r : Option Record) (q : Party) : (s.setRecord n r).lim q = s.lim q := rfl
@[simp] theorem State.setRecord_record (n : RecId) (r : Option Record) (i : RecId) :
    (s.setRecord n r).record i = if n = i then r else s.record i := by
  simp [State.setRecord, State.record]

/-! ### setSlot -/

@[simp] theorem State.setSlot_mem (p : Party) (o : Option RecId) : (s.setSlot p o).mem = s.mem := rfl
@[simp] theorem State.setSlot_free (p : Party) (o : Option RecId) : (s.setSlot p o).free = s.free := rfl
@[simp] theorem State.setSlot_records (p : Party) (o : Option RecId) : (s.setSlot p o).records = s.records := rfl
@[simp] theorem State.setSlot_guarantee (p : Party) (o : Option RecId) : (s.setSlot p o).guarantee = s.guarantee := rfl
@[simp] theorem State.setSlot_limit (p : Party) (o : Option RecId) : (s.setSlot p o).limit = s.limit := rfl
@[simp] theorem State.setSlot_usage (p : Party) (o : Option RecId) : (s.setSlot p o).usage = s.usage := rfl
@[simp] theorem State.setSlot_routes (p : Party) (o : Option RecId) : (s.setSlot p o).routes = s.routes := rfl
@[simp] theorem State.setSlot_classes (p : Party) (o : Option RecId) : (s.setSlot p o).classes = s.classes := rfl
@[simp] theorem State.setSlot_uq (p : Party) (o : Option RecId) : (s.setSlot p o).uq = s.uq := rfl
@[simp] theorem State.setSlot_runCount (p : Party) (o : Option RecId) : (s.setSlot p o).runCount = s.runCount := rfl
@[simp] theorem State.setSlot_runLimit (p : Party) (o : Option RecId) : (s.setSlot p o).runLimit = s.runLimit := rfl
@[simp] theorem State.setSlot_ports (p : Party) (o : Option RecId) : (s.setSlot p o).ports = s.ports := rfl
@[simp] theorem State.setSlot_links (p : Party) (o : Option RecId) : (s.setSlot p o).links = s.links := rfl
@[simp] theorem State.setSlot_mgrSet (p : Party) (o : Option RecId) : (s.setSlot p o).mgrSet = s.mgrSet := rfl
@[simp] theorem State.setSlot_mgrMask (p : Party) (o : Option RecId) : (s.setSlot p o).mgrMask = s.mgrMask := rfl
@[simp] theorem State.setSlot_manager (p : Party) (o : Option RecId) : (s.setSlot p o).manager = s.manager := rfl
@[simp] theorem State.setSlot_lowMark (p : Party) (o : Option RecId) : (s.setSlot p o).lowMark = s.lowMark := rfl
@[simp] theorem State.setSlot_postTimeout (p : Party) (o : Option RecId) : (s.setSlot p o).postTimeout = s.postTimeout := rfl
@[simp] theorem State.setSlot_ties (p : Party) (o : Option RecId) : (s.setSlot p o).ties = s.ties := rfl
@[simp] theorem State.setSlot_owed (p : Party) (o : Option RecId) : (s.setSlot p o).owed = s.owed := rfl
@[simp] theorem State.setSlot_ahead (p : Party) (o : Option RecId) : (s.setSlot p o).ahead = s.ahead := rfl
@[simp] theorem State.setSlot_pending (p : Party) (o : Option RecId) : (s.setSlot p o).pending = s.pending := rfl
@[simp] theorem State.setSlot_port (p : Party) (o : Option RecId) (j : PortId) : (s.setSlot p o).port j = s.port j := rfl
@[simp] theorem State.setSlot_link (p : Party) (o : Option RecId) (y : LinkId) : (s.setSlot p o).link y = s.link y := rfl
@[simp] theorem State.setSlot_record (p : Party) (o : Option RecId) (i : RecId) : (s.setSlot p o).record i = s.record i := rfl
@[simp] theorem State.setSlot_qclass (p : Party) (o : Option RecId) (q : QueueId) : (s.setSlot p o).qclass q = s.qclass q := rfl
@[simp] theorem State.setSlot_used (p : Party) (o : Option RecId) (q : Party) : (s.setSlot p o).used q = s.used q := rfl
@[simp] theorem State.setSlot_run (p : Party) (o : Option RecId) (q : Party) : (s.setSlot p o).run q = s.run q := rfl
@[simp] theorem State.setSlot_guar (p : Party) (o : Option RecId) (q : Party) : (s.setSlot p o).guar q = s.guar q := rfl
@[simp] theorem State.setSlot_lim (p : Party) (o : Option RecId) (q : Party) : (s.setSlot p o).lim q = s.lim q := rfl
@[simp] theorem State.setSlot_slot (p : Party) (o : Option RecId) (q : Party) :
    (s.setSlot p o).slot q = if p = q then o else s.slot q := by
  simp [State.setSlot, State.slot, Party.num_inj]

/-! ### setClass -/

@[simp] theorem State.setClass_mem (c : QueueId) (v : QueueClass) : (s.setClass c v).mem = s.mem := rfl
@[simp] theorem State.setClass_free (c : QueueId) (v : QueueClass) : (s.setClass c v).free = s.free := rfl
@[simp] theorem State.setClass_records (c : QueueId) (v : QueueClass) : (s.setClass c v).records = s.records := rfl
@[simp] theorem State.setClass_slots (c : QueueId) (v : QueueClass) : (s.setClass c v).slots = s.slots := rfl
@[simp] theorem State.setClass_guarantee (c : QueueId) (v : QueueClass) : (s.setClass c v).guarantee = s.guarantee := rfl
@[simp] theorem State.setClass_limit (c : QueueId) (v : QueueClass) : (s.setClass c v).limit = s.limit := rfl
@[simp] theorem State.setClass_usage (c : QueueId) (v : QueueClass) : (s.setClass c v).usage = s.usage := rfl
@[simp] theorem State.setClass_routes (c : QueueId) (v : QueueClass) : (s.setClass c v).routes = s.routes := rfl
@[simp] theorem State.setClass_uq (c : QueueId) (v : QueueClass) : (s.setClass c v).uq = s.uq := rfl
@[simp] theorem State.setClass_runCount (c : QueueId) (v : QueueClass) : (s.setClass c v).runCount = s.runCount := rfl
@[simp] theorem State.setClass_runLimit (c : QueueId) (v : QueueClass) : (s.setClass c v).runLimit = s.runLimit := rfl
@[simp] theorem State.setClass_ports (c : QueueId) (v : QueueClass) : (s.setClass c v).ports = s.ports := rfl
@[simp] theorem State.setClass_links (c : QueueId) (v : QueueClass) : (s.setClass c v).links = s.links := rfl
@[simp] theorem State.setClass_mgrSet (c : QueueId) (v : QueueClass) : (s.setClass c v).mgrSet = s.mgrSet := rfl
@[simp] theorem State.setClass_mgrMask (c : QueueId) (v : QueueClass) : (s.setClass c v).mgrMask = s.mgrMask := rfl
@[simp] theorem State.setClass_manager (c : QueueId) (v : QueueClass) : (s.setClass c v).manager = s.manager := rfl
@[simp] theorem State.setClass_lowMark (c : QueueId) (v : QueueClass) : (s.setClass c v).lowMark = s.lowMark := rfl
@[simp] theorem State.setClass_postTimeout (c : QueueId) (v : QueueClass) : (s.setClass c v).postTimeout = s.postTimeout := rfl
@[simp] theorem State.setClass_ties (c : QueueId) (v : QueueClass) : (s.setClass c v).ties = s.ties := rfl
@[simp] theorem State.setClass_owed (c : QueueId) (v : QueueClass) : (s.setClass c v).owed = s.owed := rfl
@[simp] theorem State.setClass_ahead (c : QueueId) (v : QueueClass) : (s.setClass c v).ahead = s.ahead := rfl
@[simp] theorem State.setClass_pending (c : QueueId) (v : QueueClass) : (s.setClass c v).pending = s.pending := rfl
@[simp] theorem State.setClass_port (c : QueueId) (v : QueueClass) (j : PortId) : (s.setClass c v).port j = s.port j := rfl
@[simp] theorem State.setClass_link (c : QueueId) (v : QueueClass) (y : LinkId) : (s.setClass c v).link y = s.link y := rfl
@[simp] theorem State.setClass_record (c : QueueId) (v : QueueClass) (i : RecId) : (s.setClass c v).record i = s.record i := rfl
@[simp] theorem State.setClass_slot (c : QueueId) (v : QueueClass) (q : Party) : (s.setClass c v).slot q = s.slot q := rfl
@[simp] theorem State.setClass_used (c : QueueId) (v : QueueClass) (q : Party) : (s.setClass c v).used q = s.used q := rfl
@[simp] theorem State.setClass_run (c : QueueId) (v : QueueClass) (q : Party) : (s.setClass c v).run q = s.run q := rfl
@[simp] theorem State.setClass_guar (c : QueueId) (v : QueueClass) (q : Party) : (s.setClass c v).guar q = s.guar q := rfl
@[simp] theorem State.setClass_lim (c : QueueId) (v : QueueClass) (q : Party) : (s.setClass c v).lim q = s.lim q := rfl
@[simp] theorem State.setClass_qclass (c : QueueId) (v : QueueClass) (q : QueueId) :
    (s.setClass c v).qclass q = if c = q then v else s.qclass q := by
  simp [State.setClass, State.qclass, QueueId.num_inj]

/-! ### setUsed -/

@[simp] theorem State.setUsed_mem (p : Party) (n : Nat) : (s.setUsed p n).mem = s.mem := rfl
@[simp] theorem State.setUsed_free (p : Party) (n : Nat) : (s.setUsed p n).free = s.free := rfl
@[simp] theorem State.setUsed_records (p : Party) (n : Nat) : (s.setUsed p n).records = s.records := rfl
@[simp] theorem State.setUsed_slots (p : Party) (n : Nat) : (s.setUsed p n).slots = s.slots := rfl
@[simp] theorem State.setUsed_guarantee (p : Party) (n : Nat) : (s.setUsed p n).guarantee = s.guarantee := rfl
@[simp] theorem State.setUsed_limit (p : Party) (n : Nat) : (s.setUsed p n).limit = s.limit := rfl
@[simp] theorem State.setUsed_routes (p : Party) (n : Nat) : (s.setUsed p n).routes = s.routes := rfl
@[simp] theorem State.setUsed_classes (p : Party) (n : Nat) : (s.setUsed p n).classes = s.classes := rfl
@[simp] theorem State.setUsed_uq (p : Party) (n : Nat) : (s.setUsed p n).uq = s.uq := rfl
@[simp] theorem State.setUsed_runCount (p : Party) (n : Nat) : (s.setUsed p n).runCount = s.runCount := rfl
@[simp] theorem State.setUsed_runLimit (p : Party) (n : Nat) : (s.setUsed p n).runLimit = s.runLimit := rfl
@[simp] theorem State.setUsed_ports (p : Party) (n : Nat) : (s.setUsed p n).ports = s.ports := rfl
@[simp] theorem State.setUsed_links (p : Party) (n : Nat) : (s.setUsed p n).links = s.links := rfl
@[simp] theorem State.setUsed_mgrSet (p : Party) (n : Nat) : (s.setUsed p n).mgrSet = s.mgrSet := rfl
@[simp] theorem State.setUsed_mgrMask (p : Party) (n : Nat) : (s.setUsed p n).mgrMask = s.mgrMask := rfl
@[simp] theorem State.setUsed_manager (p : Party) (n : Nat) : (s.setUsed p n).manager = s.manager := rfl
@[simp] theorem State.setUsed_lowMark (p : Party) (n : Nat) : (s.setUsed p n).lowMark = s.lowMark := rfl
@[simp] theorem State.setUsed_postTimeout (p : Party) (n : Nat) : (s.setUsed p n).postTimeout = s.postTimeout := rfl
@[simp] theorem State.setUsed_ties (p : Party) (n : Nat) : (s.setUsed p n).ties = s.ties := rfl
@[simp] theorem State.setUsed_owed (p : Party) (n : Nat) : (s.setUsed p n).owed = s.owed := rfl
@[simp] theorem State.setUsed_ahead (p : Party) (n : Nat) : (s.setUsed p n).ahead = s.ahead := rfl
@[simp] theorem State.setUsed_pending (p : Party) (n : Nat) : (s.setUsed p n).pending = s.pending := rfl
@[simp] theorem State.setUsed_port (p : Party) (n : Nat) (j : PortId) : (s.setUsed p n).port j = s.port j := rfl
@[simp] theorem State.setUsed_link (p : Party) (n : Nat) (y : LinkId) : (s.setUsed p n).link y = s.link y := rfl
@[simp] theorem State.setUsed_record (p : Party) (n : Nat) (i : RecId) : (s.setUsed p n).record i = s.record i := rfl
@[simp] theorem State.setUsed_slot (p : Party) (n : Nat) (q : Party) : (s.setUsed p n).slot q = s.slot q := rfl
@[simp] theorem State.setUsed_qclass (p : Party) (n : Nat) (q : QueueId) : (s.setUsed p n).qclass q = s.qclass q := rfl
@[simp] theorem State.setUsed_run (p : Party) (n : Nat) (q : Party) : (s.setUsed p n).run q = s.run q := rfl
@[simp] theorem State.setUsed_guar (p : Party) (n : Nat) (q : Party) : (s.setUsed p n).guar q = s.guar q := rfl
@[simp] theorem State.setUsed_lim (p : Party) (n : Nat) (q : Party) : (s.setUsed p n).lim q = s.lim q := rfl
@[simp] theorem State.setUsed_used (p : Party) (n : Nat) (q : Party) :
    (s.setUsed p n).used q = if p = q then n else s.used q := by
  simp [State.setUsed, State.used, Party.num_inj]

/-! ### setRun -/

@[simp] theorem State.setRun_mem (p : Party) (n : Nat) : (s.setRun p n).mem = s.mem := rfl
@[simp] theorem State.setRun_free (p : Party) (n : Nat) : (s.setRun p n).free = s.free := rfl
@[simp] theorem State.setRun_records (p : Party) (n : Nat) : (s.setRun p n).records = s.records := rfl
@[simp] theorem State.setRun_slots (p : Party) (n : Nat) : (s.setRun p n).slots = s.slots := rfl
@[simp] theorem State.setRun_guarantee (p : Party) (n : Nat) : (s.setRun p n).guarantee = s.guarantee := rfl
@[simp] theorem State.setRun_limit (p : Party) (n : Nat) : (s.setRun p n).limit = s.limit := rfl
@[simp] theorem State.setRun_usage (p : Party) (n : Nat) : (s.setRun p n).usage = s.usage := rfl
@[simp] theorem State.setRun_routes (p : Party) (n : Nat) : (s.setRun p n).routes = s.routes := rfl
@[simp] theorem State.setRun_classes (p : Party) (n : Nat) : (s.setRun p n).classes = s.classes := rfl
@[simp] theorem State.setRun_uq (p : Party) (n : Nat) : (s.setRun p n).uq = s.uq := rfl
@[simp] theorem State.setRun_runLimit (p : Party) (n : Nat) : (s.setRun p n).runLimit = s.runLimit := rfl
@[simp] theorem State.setRun_ports (p : Party) (n : Nat) : (s.setRun p n).ports = s.ports := rfl
@[simp] theorem State.setRun_links (p : Party) (n : Nat) : (s.setRun p n).links = s.links := rfl
@[simp] theorem State.setRun_mgrSet (p : Party) (n : Nat) : (s.setRun p n).mgrSet = s.mgrSet := rfl
@[simp] theorem State.setRun_mgrMask (p : Party) (n : Nat) : (s.setRun p n).mgrMask = s.mgrMask := rfl
@[simp] theorem State.setRun_manager (p : Party) (n : Nat) : (s.setRun p n).manager = s.manager := rfl
@[simp] theorem State.setRun_lowMark (p : Party) (n : Nat) : (s.setRun p n).lowMark = s.lowMark := rfl
@[simp] theorem State.setRun_postTimeout (p : Party) (n : Nat) : (s.setRun p n).postTimeout = s.postTimeout := rfl
@[simp] theorem State.setRun_ties (p : Party) (n : Nat) : (s.setRun p n).ties = s.ties := rfl
@[simp] theorem State.setRun_owed (p : Party) (n : Nat) : (s.setRun p n).owed = s.owed := rfl
@[simp] theorem State.setRun_ahead (p : Party) (n : Nat) : (s.setRun p n).ahead = s.ahead := rfl
@[simp] theorem State.setRun_pending (p : Party) (n : Nat) : (s.setRun p n).pending = s.pending := rfl
@[simp] theorem State.setRun_port (p : Party) (n : Nat) (j : PortId) : (s.setRun p n).port j = s.port j := rfl
@[simp] theorem State.setRun_link (p : Party) (n : Nat) (y : LinkId) : (s.setRun p n).link y = s.link y := rfl
@[simp] theorem State.setRun_record (p : Party) (n : Nat) (i : RecId) : (s.setRun p n).record i = s.record i := rfl
@[simp] theorem State.setRun_slot (p : Party) (n : Nat) (q : Party) : (s.setRun p n).slot q = s.slot q := rfl
@[simp] theorem State.setRun_qclass (p : Party) (n : Nat) (q : QueueId) : (s.setRun p n).qclass q = s.qclass q := rfl
@[simp] theorem State.setRun_used (p : Party) (n : Nat) (q : Party) : (s.setRun p n).used q = s.used q := rfl
@[simp] theorem State.setRun_guar (p : Party) (n : Nat) (q : Party) : (s.setRun p n).guar q = s.guar q := rfl
@[simp] theorem State.setRun_lim (p : Party) (n : Nat) (q : Party) : (s.setRun p n).lim q = s.lim q := rfl
@[simp] theorem State.setRun_run (p : Party) (n : Nat) (q : Party) :
    (s.setRun p n).run q = if p = q then n else s.run q := by
  simp [State.setRun, State.run, Party.num_inj]

/-! ### setFree -/

@[simp] theorem State.setFree_mem (f : List CellId) : (s.setFree f).mem = s.mem := rfl
@[simp] theorem State.setFree_records (f : List CellId) : (s.setFree f).records = s.records := rfl
@[simp] theorem State.setFree_slots (f : List CellId) : (s.setFree f).slots = s.slots := rfl
@[simp] theorem State.setFree_guarantee (f : List CellId) : (s.setFree f).guarantee = s.guarantee := rfl
@[simp] theorem State.setFree_limit (f : List CellId) : (s.setFree f).limit = s.limit := rfl
@[simp] theorem State.setFree_usage (f : List CellId) : (s.setFree f).usage = s.usage := rfl
@[simp] theorem State.setFree_routes (f : List CellId) : (s.setFree f).routes = s.routes := rfl
@[simp] theorem State.setFree_classes (f : List CellId) : (s.setFree f).classes = s.classes := rfl
@[simp] theorem State.setFree_uq (f : List CellId) : (s.setFree f).uq = s.uq := rfl
@[simp] theorem State.setFree_runCount (f : List CellId) : (s.setFree f).runCount = s.runCount := rfl
@[simp] theorem State.setFree_runLimit (f : List CellId) : (s.setFree f).runLimit = s.runLimit := rfl
@[simp] theorem State.setFree_ports (f : List CellId) : (s.setFree f).ports = s.ports := rfl
@[simp] theorem State.setFree_links (f : List CellId) : (s.setFree f).links = s.links := rfl
@[simp] theorem State.setFree_mgrSet (f : List CellId) : (s.setFree f).mgrSet = s.mgrSet := rfl
@[simp] theorem State.setFree_mgrMask (f : List CellId) : (s.setFree f).mgrMask = s.mgrMask := rfl
@[simp] theorem State.setFree_manager (f : List CellId) : (s.setFree f).manager = s.manager := rfl
@[simp] theorem State.setFree_lowMark (f : List CellId) : (s.setFree f).lowMark = s.lowMark := rfl
@[simp] theorem State.setFree_postTimeout (f : List CellId) : (s.setFree f).postTimeout = s.postTimeout := rfl
@[simp] theorem State.setFree_ties (f : List CellId) : (s.setFree f).ties = s.ties := rfl
@[simp] theorem State.setFree_owed (f : List CellId) : (s.setFree f).owed = s.owed := rfl
@[simp] theorem State.setFree_ahead (f : List CellId) : (s.setFree f).ahead = s.ahead := rfl
@[simp] theorem State.setFree_pending (f : List CellId) : (s.setFree f).pending = s.pending := rfl
@[simp] theorem State.setFree_port (f : List CellId) (j : PortId) : (s.setFree f).port j = s.port j := rfl
@[simp] theorem State.setFree_link (f : List CellId) (y : LinkId) : (s.setFree f).link y = s.link y := rfl
@[simp] theorem State.setFree_record (f : List CellId) (i : RecId) : (s.setFree f).record i = s.record i := rfl
@[simp] theorem State.setFree_slot (f : List CellId) (q : Party) : (s.setFree f).slot q = s.slot q := rfl
@[simp] theorem State.setFree_qclass (f : List CellId) (q : QueueId) : (s.setFree f).qclass q = s.qclass q := rfl
@[simp] theorem State.setFree_used (f : List CellId) (q : Party) : (s.setFree f).used q = s.used q := rfl
@[simp] theorem State.setFree_run (f : List CellId) (q : Party) : (s.setFree f).run q = s.run q := rfl
@[simp] theorem State.setFree_guar (f : List CellId) (q : Party) : (s.setFree f).guar q = s.guar q := rfl
@[simp] theorem State.setFree_lim (f : List CellId) (q : Party) : (s.setFree f).lim q = s.lim q := rfl
@[simp] theorem State.setFree_free (f : List CellId) : (s.setFree f).free = f := rfl

/-! ### setMem -/

@[simp] theorem State.setMem_free (m : Memory) : (s.setMem m).free = s.free := rfl
@[simp] theorem State.setMem_records (m : Memory) : (s.setMem m).records = s.records := rfl
@[simp] theorem State.setMem_slots (m : Memory) : (s.setMem m).slots = s.slots := rfl
@[simp] theorem State.setMem_guarantee (m : Memory) : (s.setMem m).guarantee = s.guarantee := rfl
@[simp] theorem State.setMem_limit (m : Memory) : (s.setMem m).limit = s.limit := rfl
@[simp] theorem State.setMem_usage (m : Memory) : (s.setMem m).usage = s.usage := rfl
@[simp] theorem State.setMem_routes (m : Memory) : (s.setMem m).routes = s.routes := rfl
@[simp] theorem State.setMem_classes (m : Memory) : (s.setMem m).classes = s.classes := rfl
@[simp] theorem State.setMem_uq (m : Memory) : (s.setMem m).uq = s.uq := rfl
@[simp] theorem State.setMem_runCount (m : Memory) : (s.setMem m).runCount = s.runCount := rfl
@[simp] theorem State.setMem_runLimit (m : Memory) : (s.setMem m).runLimit = s.runLimit := rfl
@[simp] theorem State.setMem_ports (m : Memory) : (s.setMem m).ports = s.ports := rfl
@[simp] theorem State.setMem_links (m : Memory) : (s.setMem m).links = s.links := rfl
@[simp] theorem State.setMem_mgrSet (m : Memory) : (s.setMem m).mgrSet = s.mgrSet := rfl
@[simp] theorem State.setMem_mgrMask (m : Memory) : (s.setMem m).mgrMask = s.mgrMask := rfl
@[simp] theorem State.setMem_manager (m : Memory) : (s.setMem m).manager = s.manager := rfl
@[simp] theorem State.setMem_lowMark (m : Memory) : (s.setMem m).lowMark = s.lowMark := rfl
@[simp] theorem State.setMem_postTimeout (m : Memory) : (s.setMem m).postTimeout = s.postTimeout := rfl
@[simp] theorem State.setMem_ties (m : Memory) : (s.setMem m).ties = s.ties := rfl
@[simp] theorem State.setMem_owed (m : Memory) : (s.setMem m).owed = s.owed := rfl
@[simp] theorem State.setMem_ahead (m : Memory) : (s.setMem m).ahead = s.ahead := rfl
@[simp] theorem State.setMem_pending (m : Memory) : (s.setMem m).pending = s.pending := rfl
@[simp] theorem State.setMem_port (m : Memory) (j : PortId) : (s.setMem m).port j = s.port j := rfl
@[simp] theorem State.setMem_link (m : Memory) (y : LinkId) : (s.setMem m).link y = s.link y := rfl
@[simp] theorem State.setMem_record (m : Memory) (i : RecId) : (s.setMem m).record i = s.record i := rfl
@[simp] theorem State.setMem_slot (m : Memory) (q : Party) : (s.setMem m).slot q = s.slot q := rfl
@[simp] theorem State.setMem_qclass (m : Memory) (q : QueueId) : (s.setMem m).qclass q = s.qclass q := rfl
@[simp] theorem State.setMem_used (m : Memory) (q : Party) : (s.setMem m).used q = s.used q := rfl
@[simp] theorem State.setMem_run (m : Memory) (q : Party) : (s.setMem m).run q = s.run q := rfl
@[simp] theorem State.setMem_guar (m : Memory) (q : Party) : (s.setMem m).guar q = s.guar q := rfl
@[simp] theorem State.setMem_lim (m : Memory) (q : Party) : (s.setMem m).lim q = s.lim q := rfl
@[simp] theorem State.setMem_mem (m : Memory) : (s.setMem m).mem = m := rfl

/-! ### setUq -/

@[simp] theorem State.setUq_mem (u : UndeliverableQueue) : (s.setUq u).mem = s.mem := rfl
@[simp] theorem State.setUq_free (u : UndeliverableQueue) : (s.setUq u).free = s.free := rfl
@[simp] theorem State.setUq_records (u : UndeliverableQueue) : (s.setUq u).records = s.records := rfl
@[simp] theorem State.setUq_slots (u : UndeliverableQueue) : (s.setUq u).slots = s.slots := rfl
@[simp] theorem State.setUq_guarantee (u : UndeliverableQueue) : (s.setUq u).guarantee = s.guarantee := rfl
@[simp] theorem State.setUq_limit (u : UndeliverableQueue) : (s.setUq u).limit = s.limit := rfl
@[simp] theorem State.setUq_usage (u : UndeliverableQueue) : (s.setUq u).usage = s.usage := rfl
@[simp] theorem State.setUq_routes (u : UndeliverableQueue) : (s.setUq u).routes = s.routes := rfl
@[simp] theorem State.setUq_classes (u : UndeliverableQueue) : (s.setUq u).classes = s.classes := rfl
@[simp] theorem State.setUq_runCount (u : UndeliverableQueue) : (s.setUq u).runCount = s.runCount := rfl
@[simp] theorem State.setUq_runLimit (u : UndeliverableQueue) : (s.setUq u).runLimit = s.runLimit := rfl
@[simp] theorem State.setUq_ports (u : UndeliverableQueue) : (s.setUq u).ports = s.ports := rfl
@[simp] theorem State.setUq_links (u : UndeliverableQueue) : (s.setUq u).links = s.links := rfl
@[simp] theorem State.setUq_mgrSet (u : UndeliverableQueue) : (s.setUq u).mgrSet = s.mgrSet := rfl
@[simp] theorem State.setUq_mgrMask (u : UndeliverableQueue) : (s.setUq u).mgrMask = s.mgrMask := rfl
@[simp] theorem State.setUq_manager (u : UndeliverableQueue) : (s.setUq u).manager = s.manager := rfl
@[simp] theorem State.setUq_lowMark (u : UndeliverableQueue) : (s.setUq u).lowMark = s.lowMark := rfl
@[simp] theorem State.setUq_postTimeout (u : UndeliverableQueue) : (s.setUq u).postTimeout = s.postTimeout := rfl
@[simp] theorem State.setUq_ties (u : UndeliverableQueue) : (s.setUq u).ties = s.ties := rfl
@[simp] theorem State.setUq_owed (u : UndeliverableQueue) : (s.setUq u).owed = s.owed := rfl
@[simp] theorem State.setUq_ahead (u : UndeliverableQueue) : (s.setUq u).ahead = s.ahead := rfl
@[simp] theorem State.setUq_pending (u : UndeliverableQueue) : (s.setUq u).pending = s.pending := rfl
@[simp] theorem State.setUq_port (u : UndeliverableQueue) (j : PortId) : (s.setUq u).port j = s.port j := rfl
@[simp] theorem State.setUq_link (u : UndeliverableQueue) (y : LinkId) : (s.setUq u).link y = s.link y := rfl
@[simp] theorem State.setUq_record (u : UndeliverableQueue) (i : RecId) : (s.setUq u).record i = s.record i := rfl
@[simp] theorem State.setUq_slot (u : UndeliverableQueue) (q : Party) : (s.setUq u).slot q = s.slot q := rfl
@[simp] theorem State.setUq_qclass (u : UndeliverableQueue) (q : QueueId) : (s.setUq u).qclass q = s.qclass q := rfl
@[simp] theorem State.setUq_used (u : UndeliverableQueue) (q : Party) : (s.setUq u).used q = s.used q := rfl
@[simp] theorem State.setUq_run (u : UndeliverableQueue) (q : Party) : (s.setUq u).run q = s.run q := rfl
@[simp] theorem State.setUq_guar (u : UndeliverableQueue) (q : Party) : (s.setUq u).guar q = s.guar q := rfl
@[simp] theorem State.setUq_lim (u : UndeliverableQueue) (q : Party) : (s.setUq u).lim q = s.lim q := rfl
@[simp] theorem State.setUq_uq (u : UndeliverableQueue) : (s.setUq u).uq = u := rfl

/-! ### setManager -/

@[simp] theorem State.setManager_mem (o : Option PortId) (b : Byte) : (s.setManager o b).mem = s.mem := rfl
@[simp] theorem State.setManager_free (o : Option PortId) (b : Byte) : (s.setManager o b).free = s.free := rfl
@[simp] theorem State.setManager_records (o : Option PortId) (b : Byte) : (s.setManager o b).records = s.records := rfl
@[simp] theorem State.setManager_slots (o : Option PortId) (b : Byte) : (s.setManager o b).slots = s.slots := rfl
@[simp] theorem State.setManager_guarantee (o : Option PortId) (b : Byte) : (s.setManager o b).guarantee = s.guarantee := rfl
@[simp] theorem State.setManager_limit (o : Option PortId) (b : Byte) : (s.setManager o b).limit = s.limit := rfl
@[simp] theorem State.setManager_usage (o : Option PortId) (b : Byte) : (s.setManager o b).usage = s.usage := rfl
@[simp] theorem State.setManager_routes (o : Option PortId) (b : Byte) : (s.setManager o b).routes = s.routes := rfl
@[simp] theorem State.setManager_classes (o : Option PortId) (b : Byte) : (s.setManager o b).classes = s.classes := rfl
@[simp] theorem State.setManager_uq (o : Option PortId) (b : Byte) : (s.setManager o b).uq = s.uq := rfl
@[simp] theorem State.setManager_runCount (o : Option PortId) (b : Byte) : (s.setManager o b).runCount = s.runCount := rfl
@[simp] theorem State.setManager_runLimit (o : Option PortId) (b : Byte) : (s.setManager o b).runLimit = s.runLimit := rfl
@[simp] theorem State.setManager_ports (o : Option PortId) (b : Byte) : (s.setManager o b).ports = s.ports := rfl
@[simp] theorem State.setManager_links (o : Option PortId) (b : Byte) : (s.setManager o b).links = s.links := rfl
@[simp] theorem State.setManager_mgrSet (o : Option PortId) (b : Byte) : (s.setManager o b).mgrSet = s.mgrSet := rfl
@[simp] theorem State.setManager_lowMark (o : Option PortId) (b : Byte) : (s.setManager o b).lowMark = s.lowMark := rfl
@[simp] theorem State.setManager_postTimeout (o : Option PortId) (b : Byte) : (s.setManager o b).postTimeout = s.postTimeout := rfl
@[simp] theorem State.setManager_ties (o : Option PortId) (b : Byte) : (s.setManager o b).ties = s.ties := rfl
@[simp] theorem State.setManager_owed (o : Option PortId) (b : Byte) : (s.setManager o b).owed = s.owed := rfl
@[simp] theorem State.setManager_ahead (o : Option PortId) (b : Byte) : (s.setManager o b).ahead = s.ahead := rfl
@[simp] theorem State.setManager_pending (o : Option PortId) (b : Byte) : (s.setManager o b).pending = s.pending := rfl
@[simp] theorem State.setManager_port (o : Option PortId) (b : Byte) (j : PortId) : (s.setManager o b).port j = s.port j := rfl
@[simp] theorem State.setManager_link (o : Option PortId) (b : Byte) (y : LinkId) : (s.setManager o b).link y = s.link y := rfl
@[simp] theorem State.setManager_record (o : Option PortId) (b : Byte) (i : RecId) : (s.setManager o b).record i = s.record i := rfl
@[simp] theorem State.setManager_slot (o : Option PortId) (b : Byte) (q : Party) : (s.setManager o b).slot q = s.slot q := rfl
@[simp] theorem State.setManager_qclass (o : Option PortId) (b : Byte) (q : QueueId) : (s.setManager o b).qclass q = s.qclass q := rfl
@[simp] theorem State.setManager_used (o : Option PortId) (b : Byte) (q : Party) : (s.setManager o b).used q = s.used q := rfl
@[simp] theorem State.setManager_run (o : Option PortId) (b : Byte) (q : Party) : (s.setManager o b).run q = s.run q := rfl
@[simp] theorem State.setManager_guar (o : Option PortId) (b : Byte) (q : Party) : (s.setManager o b).guar q = s.guar q := rfl
@[simp] theorem State.setManager_lim (o : Option PortId) (b : Byte) (q : Party) : (s.setManager o b).lim q = s.lim q := rfl
@[simp] theorem State.setManager_manager (o : Option PortId) (b : Byte) : (s.setManager o b).manager = o := rfl
@[simp] theorem State.setManager_mgrMask (o : Option PortId) (b : Byte) : (s.setManager o b).mgrMask = b := rfl

/-! ### raiseHost -/

@[simp] theorem State.raiseHost_mem (k : PortId) (e : HostEvent) : (s.raiseHost k e).mem = s.mem := rfl
@[simp] theorem State.raiseHost_free (k : PortId) (e : HostEvent) : (s.raiseHost k e).free = s.free := rfl
@[simp] theorem State.raiseHost_records (k : PortId) (e : HostEvent) : (s.raiseHost k e).records = s.records := rfl
@[simp] theorem State.raiseHost_slots (k : PortId) (e : HostEvent) : (s.raiseHost k e).slots = s.slots := rfl
@[simp] theorem State.raiseHost_guarantee (k : PortId) (e : HostEvent) : (s.raiseHost k e).guarantee = s.guarantee := rfl
@[simp] theorem State.raiseHost_limit (k : PortId) (e : HostEvent) : (s.raiseHost k e).limit = s.limit := rfl
@[simp] theorem State.raiseHost_usage (k : PortId) (e : HostEvent) : (s.raiseHost k e).usage = s.usage := rfl
@[simp] theorem State.raiseHost_routes (k : PortId) (e : HostEvent) : (s.raiseHost k e).routes = s.routes := rfl
@[simp] theorem State.raiseHost_classes (k : PortId) (e : HostEvent) : (s.raiseHost k e).classes = s.classes := rfl
@[simp] theorem State.raiseHost_uq (k : PortId) (e : HostEvent) : (s.raiseHost k e).uq = s.uq := rfl
@[simp] theorem State.raiseHost_runCount (k : PortId) (e : HostEvent) : (s.raiseHost k e).runCount = s.runCount := rfl
@[simp] theorem State.raiseHost_runLimit (k : PortId) (e : HostEvent) : (s.raiseHost k e).runLimit = s.runLimit := rfl
@[simp] theorem State.raiseHost_links (k : PortId) (e : HostEvent) : (s.raiseHost k e).links = s.links := rfl
@[simp] theorem State.raiseHost_mgrSet (k : PortId) (e : HostEvent) : (s.raiseHost k e).mgrSet = s.mgrSet := rfl
@[simp] theorem State.raiseHost_mgrMask (k : PortId) (e : HostEvent) : (s.raiseHost k e).mgrMask = s.mgrMask := rfl
@[simp] theorem State.raiseHost_manager (k : PortId) (e : HostEvent) : (s.raiseHost k e).manager = s.manager := rfl
@[simp] theorem State.raiseHost_lowMark (k : PortId) (e : HostEvent) : (s.raiseHost k e).lowMark = s.lowMark := rfl
@[simp] theorem State.raiseHost_postTimeout (k : PortId) (e : HostEvent) : (s.raiseHost k e).postTimeout = s.postTimeout := rfl
@[simp] theorem State.raiseHost_ties (k : PortId) (e : HostEvent) : (s.raiseHost k e).ties = s.ties := rfl
@[simp] theorem State.raiseHost_owed (k : PortId) (e : HostEvent) : (s.raiseHost k e).owed = s.owed := rfl
@[simp] theorem State.raiseHost_ahead (k : PortId) (e : HostEvent) : (s.raiseHost k e).ahead = s.ahead := rfl
@[simp] theorem State.raiseHost_pending (k : PortId) (e : HostEvent) : (s.raiseHost k e).pending = s.pending := rfl
@[simp] theorem State.raiseHost_link (k : PortId) (e : HostEvent) (y : LinkId) : (s.raiseHost k e).link y = s.link y := rfl
@[simp] theorem State.raiseHost_record (k : PortId) (e : HostEvent) (i : RecId) : (s.raiseHost k e).record i = s.record i := rfl
@[simp] theorem State.raiseHost_slot (k : PortId) (e : HostEvent) (q : Party) : (s.raiseHost k e).slot q = s.slot q := rfl
@[simp] theorem State.raiseHost_qclass (k : PortId) (e : HostEvent) (q : QueueId) : (s.raiseHost k e).qclass q = s.qclass q := rfl
@[simp] theorem State.raiseHost_used (k : PortId) (e : HostEvent) (q : Party) : (s.raiseHost k e).used q = s.used q := rfl
@[simp] theorem State.raiseHost_run (k : PortId) (e : HostEvent) (q : Party) : (s.raiseHost k e).run q = s.run q := rfl
@[simp] theorem State.raiseHost_guar (k : PortId) (e : HostEvent) (q : Party) : (s.raiseHost k e).guar q = s.guar q := rfl
@[simp] theorem State.raiseHost_lim (k : PortId) (e : HostEvent) (q : Party) : (s.raiseHost k e).lim q = s.lim q := rfl
@[simp] theorem State.raiseHost_port (k : PortId) (e : HostEvent) (j : PortId) :
    (s.raiseHost k e).port j = if k = j then ((s.port k).raise e) else s.port j := by
  simp [State.raiseHost]

/-! ### raiseMgr -/

@[simp] theorem State.raiseMgr_mem (e : MgrEvent) : (s.raiseMgr e).mem = s.mem := rfl
@[simp] theorem State.raiseMgr_free (e : MgrEvent) : (s.raiseMgr e).free = s.free := rfl
@[simp] theorem State.raiseMgr_records (e : MgrEvent) : (s.raiseMgr e).records = s.records := rfl
@[simp] theorem State.raiseMgr_slots (e : MgrEvent) : (s.raiseMgr e).slots = s.slots := rfl
@[simp] theorem State.raiseMgr_guarantee (e : MgrEvent) : (s.raiseMgr e).guarantee = s.guarantee := rfl
@[simp] theorem State.raiseMgr_limit (e : MgrEvent) : (s.raiseMgr e).limit = s.limit := rfl
@[simp] theorem State.raiseMgr_usage (e : MgrEvent) : (s.raiseMgr e).usage = s.usage := rfl
@[simp] theorem State.raiseMgr_routes (e : MgrEvent) : (s.raiseMgr e).routes = s.routes := rfl
@[simp] theorem State.raiseMgr_classes (e : MgrEvent) : (s.raiseMgr e).classes = s.classes := rfl
@[simp] theorem State.raiseMgr_uq (e : MgrEvent) : (s.raiseMgr e).uq = s.uq := rfl
@[simp] theorem State.raiseMgr_runCount (e : MgrEvent) : (s.raiseMgr e).runCount = s.runCount := rfl
@[simp] theorem State.raiseMgr_runLimit (e : MgrEvent) : (s.raiseMgr e).runLimit = s.runLimit := rfl
@[simp] theorem State.raiseMgr_links (e : MgrEvent) : (s.raiseMgr e).links = s.links := rfl
@[simp] theorem State.raiseMgr_mgrMask (e : MgrEvent) : (s.raiseMgr e).mgrMask = s.mgrMask := rfl
@[simp] theorem State.raiseMgr_manager (e : MgrEvent) : (s.raiseMgr e).manager = s.manager := rfl
@[simp] theorem State.raiseMgr_lowMark (e : MgrEvent) : (s.raiseMgr e).lowMark = s.lowMark := rfl
@[simp] theorem State.raiseMgr_postTimeout (e : MgrEvent) : (s.raiseMgr e).postTimeout = s.postTimeout := rfl
@[simp] theorem State.raiseMgr_ties (e : MgrEvent) : (s.raiseMgr e).ties = s.ties := rfl
@[simp] theorem State.raiseMgr_owed (e : MgrEvent) : (s.raiseMgr e).owed = s.owed := rfl
@[simp] theorem State.raiseMgr_ahead (e : MgrEvent) : (s.raiseMgr e).ahead = s.ahead := rfl
@[simp] theorem State.raiseMgr_pending (e : MgrEvent) : (s.raiseMgr e).pending = s.pending := rfl
@[simp] theorem State.raiseMgr_link (e : MgrEvent) (y : LinkId) : (s.raiseMgr e).link y = s.link y := rfl
@[simp] theorem State.raiseMgr_record (e : MgrEvent) (i : RecId) : (s.raiseMgr e).record i = s.record i := rfl
@[simp] theorem State.raiseMgr_slot (e : MgrEvent) (q : Party) : (s.raiseMgr e).slot q = s.slot q := rfl
@[simp] theorem State.raiseMgr_qclass (e : MgrEvent) (q : QueueId) : (s.raiseMgr e).qclass q = s.qclass q := rfl
@[simp] theorem State.raiseMgr_used (e : MgrEvent) (q : Party) : (s.raiseMgr e).used q = s.used q := rfl
@[simp] theorem State.raiseMgr_run (e : MgrEvent) (q : Party) : (s.raiseMgr e).run q = s.run q := rfl
@[simp] theorem State.raiseMgr_guar (e : MgrEvent) (q : Party) : (s.raiseMgr e).guar q = s.guar q := rfl
@[simp] theorem State.raiseMgr_lim (e : MgrEvent) (q : Party) : (s.raiseMgr e).lim q = s.lim q := rfl
@[simp] theorem State.raiseMgr_mgrSet (e : MgrEvent) : (s.raiseMgr e).mgrSet = s.mgrSet ||| e.bit := rfl
@[simp] theorem State.raiseMgr_port (e : MgrEvent) (j : PortId) : (s.raiseMgr e).port j = (s.port j).noteMgr e := by
  simp [State.raiseMgr, State.port, vget_map]

/-! ### setTx -/

@[simp] theorem State.setTx_mem (k : PortId) (t : TxState) : (s.setTx k t).mem = s.mem := rfl
@[simp] theorem State.setTx_free (k : PortId) (t : TxState) : (s.setTx k t).free = s.free := rfl
@[simp] theorem State.setTx_records (k : PortId) (t : TxState) : (s.setTx k t).records = s.records := rfl
@[simp] theorem State.setTx_slots (k : PortId) (t : TxState) : (s.setTx k t).slots = s.slots := rfl
@[simp] theorem State.setTx_guarantee (k : PortId) (t : TxState) : (s.setTx k t).guarantee = s.guarantee := rfl
@[simp] theorem State.setTx_limit (k : PortId) (t : TxState) : (s.setTx k t).limit = s.limit := rfl
@[simp] theorem State.setTx_usage (k : PortId) (t : TxState) : (s.setTx k t).usage = s.usage := rfl
@[simp] theorem State.setTx_routes (k : PortId) (t : TxState) : (s.setTx k t).routes = s.routes := rfl
@[simp] theorem State.setTx_classes (k : PortId) (t : TxState) : (s.setTx k t).classes = s.classes := rfl
@[simp] theorem State.setTx_uq (k : PortId) (t : TxState) : (s.setTx k t).uq = s.uq := rfl
@[simp] theorem State.setTx_runCount (k : PortId) (t : TxState) : (s.setTx k t).runCount = s.runCount := rfl
@[simp] theorem State.setTx_runLimit (k : PortId) (t : TxState) : (s.setTx k t).runLimit = s.runLimit := rfl
@[simp] theorem State.setTx_links (k : PortId) (t : TxState) : (s.setTx k t).links = s.links := rfl
@[simp] theorem State.setTx_mgrSet (k : PortId) (t : TxState) : (s.setTx k t).mgrSet = s.mgrSet := rfl
@[simp] theorem State.setTx_mgrMask (k : PortId) (t : TxState) : (s.setTx k t).mgrMask = s.mgrMask := rfl
@[simp] theorem State.setTx_manager (k : PortId) (t : TxState) : (s.setTx k t).manager = s.manager := rfl
@[simp] theorem State.setTx_lowMark (k : PortId) (t : TxState) : (s.setTx k t).lowMark = s.lowMark := rfl
@[simp] theorem State.setTx_postTimeout (k : PortId) (t : TxState) : (s.setTx k t).postTimeout = s.postTimeout := rfl
@[simp] theorem State.setTx_ties (k : PortId) (t : TxState) : (s.setTx k t).ties = s.ties := rfl
@[simp] theorem State.setTx_owed (k : PortId) (t : TxState) : (s.setTx k t).owed = s.owed := rfl
@[simp] theorem State.setTx_ahead (k : PortId) (t : TxState) : (s.setTx k t).ahead = s.ahead := rfl
@[simp] theorem State.setTx_pending (k : PortId) (t : TxState) : (s.setTx k t).pending = s.pending := rfl
@[simp] theorem State.setTx_link (k : PortId) (t : TxState) (y : LinkId) : (s.setTx k t).link y = s.link y := rfl
@[simp] theorem State.setTx_record (k : PortId) (t : TxState) (i : RecId) : (s.setTx k t).record i = s.record i := rfl
@[simp] theorem State.setTx_slot (k : PortId) (t : TxState) (q : Party) : (s.setTx k t).slot q = s.slot q := rfl
@[simp] theorem State.setTx_qclass (k : PortId) (t : TxState) (q : QueueId) : (s.setTx k t).qclass q = s.qclass q := rfl
@[simp] theorem State.setTx_used (k : PortId) (t : TxState) (q : Party) : (s.setTx k t).used q = s.used q := rfl
@[simp] theorem State.setTx_run (k : PortId) (t : TxState) (q : Party) : (s.setTx k t).run q = s.run q := rfl
@[simp] theorem State.setTx_guar (k : PortId) (t : TxState) (q : Party) : (s.setTx k t).guar q = s.guar q := rfl
@[simp] theorem State.setTx_lim (k : PortId) (t : TxState) (q : Party) : (s.setTx k t).lim q = s.lim q := rfl
@[simp] theorem State.setTx_port (k : PortId) (t : TxState) (j : PortId) :
    (s.setTx k t).port j = if k = j then { s.port k with tx := t } else s.port j := by
  simp [State.setTx]

/-! ### setReply -/

@[simp] theorem State.setReply_mem (k : PortId) (r : List Byte) : (s.setReply k r).mem = s.mem := rfl
@[simp] theorem State.setReply_free (k : PortId) (r : List Byte) : (s.setReply k r).free = s.free := rfl
@[simp] theorem State.setReply_records (k : PortId) (r : List Byte) : (s.setReply k r).records = s.records := rfl
@[simp] theorem State.setReply_slots (k : PortId) (r : List Byte) : (s.setReply k r).slots = s.slots := rfl
@[simp] theorem State.setReply_guarantee (k : PortId) (r : List Byte) : (s.setReply k r).guarantee = s.guarantee := rfl
@[simp] theorem State.setReply_limit (k : PortId) (r : List Byte) : (s.setReply k r).limit = s.limit := rfl
@[simp] theorem State.setReply_usage (k : PortId) (r : List Byte) : (s.setReply k r).usage = s.usage := rfl
@[simp] theorem State.setReply_routes (k : PortId) (r : List Byte) : (s.setReply k r).routes = s.routes := rfl
@[simp] theorem State.setReply_classes (k : PortId) (r : List Byte) : (s.setReply k r).classes = s.classes := rfl
@[simp] theorem State.setReply_uq (k : PortId) (r : List Byte) : (s.setReply k r).uq = s.uq := rfl
@[simp] theorem State.setReply_runCount (k : PortId) (r : List Byte) : (s.setReply k r).runCount = s.runCount := rfl
@[simp] theorem State.setReply_runLimit (k : PortId) (r : List Byte) : (s.setReply k r).runLimit = s.runLimit := rfl
@[simp] theorem State.setReply_links (k : PortId) (r : List Byte) : (s.setReply k r).links = s.links := rfl
@[simp] theorem State.setReply_mgrSet (k : PortId) (r : List Byte) : (s.setReply k r).mgrSet = s.mgrSet := rfl
@[simp] theorem State.setReply_mgrMask (k : PortId) (r : List Byte) : (s.setReply k r).mgrMask = s.mgrMask := rfl
@[simp] theorem State.setReply_manager (k : PortId) (r : List Byte) : (s.setReply k r).manager = s.manager := rfl
@[simp] theorem State.setReply_lowMark (k : PortId) (r : List Byte) : (s.setReply k r).lowMark = s.lowMark := rfl
@[simp] theorem State.setReply_postTimeout (k : PortId) (r : List Byte) : (s.setReply k r).postTimeout = s.postTimeout := rfl
@[simp] theorem State.setReply_ties (k : PortId) (r : List Byte) : (s.setReply k r).ties = s.ties := rfl
@[simp] theorem State.setReply_owed (k : PortId) (r : List Byte) : (s.setReply k r).owed = s.owed := rfl
@[simp] theorem State.setReply_ahead (k : PortId) (r : List Byte) : (s.setReply k r).ahead = s.ahead := rfl
@[simp] theorem State.setReply_pending (k : PortId) (r : List Byte) : (s.setReply k r).pending = s.pending := rfl
@[simp] theorem State.setReply_link (k : PortId) (r : List Byte) (y : LinkId) : (s.setReply k r).link y = s.link y := rfl
@[simp] theorem State.setReply_record (k : PortId) (r : List Byte) (i : RecId) : (s.setReply k r).record i = s.record i := rfl
@[simp] theorem State.setReply_slot (k : PortId) (r : List Byte) (q : Party) : (s.setReply k r).slot q = s.slot q := rfl
@[simp] theorem State.setReply_qclass (k : PortId) (r : List Byte) (q : QueueId) : (s.setReply k r).qclass q = s.qclass q := rfl
@[simp] theorem State.setReply_used (k : PortId) (r : List Byte) (q : Party) : (s.setReply k r).used q = s.used q := rfl
@[simp] theorem State.setReply_run (k : PortId) (r : List Byte) (q : Party) : (s.setReply k r).run q = s.run q := rfl
@[simp] theorem State.setReply_guar (k : PortId) (r : List Byte) (q : Party) : (s.setReply k r).guar q = s.guar q := rfl
@[simp] theorem State.setReply_lim (k : PortId) (r : List Byte) (q : Party) : (s.setReply k r).lim q = s.lim q := rfl
@[simp] theorem State.setReply_port (k : PortId) (r : List Byte) (j : PortId) :
    (s.setReply k r).port j = if k = j then { s.port k with replyRest := r } else s.port j := by
  simp [State.setReply]

/-! ### shift -/

@[simp] theorem State.shift_mem (k : PortId) (early : Bool) (b : Byte) : (s.shift k early b).mem = s.mem := rfl
@[simp] theorem State.shift_free (k : PortId) (early : Bool) (b : Byte) : (s.shift k early b).free = s.free := rfl
@[simp] theorem State.shift_records (k : PortId) (early : Bool) (b : Byte) : (s.shift k early b).records = s.records := rfl
@[simp] theorem State.shift_slots (k : PortId) (early : Bool) (b : Byte) : (s.shift k early b).slots = s.slots := rfl
@[simp] theorem State.shift_guarantee (k : PortId) (early : Bool) (b : Byte) : (s.shift k early b).guarantee = s.guarantee := rfl
@[simp] theorem State.shift_limit (k : PortId) (early : Bool) (b : Byte) : (s.shift k early b).limit = s.limit := rfl
@[simp] theorem State.shift_usage (k : PortId) (early : Bool) (b : Byte) : (s.shift k early b).usage = s.usage := rfl
@[simp] theorem State.shift_routes (k : PortId) (early : Bool) (b : Byte) : (s.shift k early b).routes = s.routes := rfl
@[simp] theorem State.shift_classes (k : PortId) (early : Bool) (b : Byte) : (s.shift k early b).classes = s.classes := rfl
@[simp] theorem State.shift_uq (k : PortId) (early : Bool) (b : Byte) : (s.shift k early b).uq = s.uq := rfl
@[simp] theorem State.shift_runCount (k : PortId) (early : Bool) (b : Byte) : (s.shift k early b).runCount = s.runCount := rfl
@[simp] theorem State.shift_runLimit (k : PortId) (early : Bool) (b : Byte) : (s.shift k early b).runLimit = s.runLimit := rfl
@[simp] theorem State.shift_links (k : PortId) (early : Bool) (b : Byte) : (s.shift k early b).links = s.links := rfl
@[simp] theorem State.shift_mgrSet (k : PortId) (early : Bool) (b : Byte) : (s.shift k early b).mgrSet = s.mgrSet := rfl
@[simp] theorem State.shift_mgrMask (k : PortId) (early : Bool) (b : Byte) : (s.shift k early b).mgrMask = s.mgrMask := rfl
@[simp] theorem State.shift_manager (k : PortId) (early : Bool) (b : Byte) : (s.shift k early b).manager = s.manager := rfl
@[simp] theorem State.shift_lowMark (k : PortId) (early : Bool) (b : Byte) : (s.shift k early b).lowMark = s.lowMark := rfl
@[simp] theorem State.shift_postTimeout (k : PortId) (early : Bool) (b : Byte) : (s.shift k early b).postTimeout = s.postTimeout := rfl
@[simp] theorem State.shift_ties (k : PortId) (early : Bool) (b : Byte) : (s.shift k early b).ties = s.ties := rfl
@[simp] theorem State.shift_owed (k : PortId) (early : Bool) (b : Byte) : (s.shift k early b).owed = s.owed := rfl
@[simp] theorem State.shift_ahead (k : PortId) (early : Bool) (b : Byte) : (s.shift k early b).ahead = s.ahead := rfl
@[simp] theorem State.shift_pending (k : PortId) (early : Bool) (b : Byte) : (s.shift k early b).pending = s.pending := rfl
@[simp] theorem State.shift_link (k : PortId) (early : Bool) (b : Byte) (y : LinkId) : (s.shift k early b).link y = s.link y := rfl
@[simp] theorem State.shift_record (k : PortId) (early : Bool) (b : Byte) (i : RecId) : (s.shift k early b).record i = s.record i := rfl
@[simp] theorem State.shift_slot (k : PortId) (early : Bool) (b : Byte) (q : Party) : (s.shift k early b).slot q = s.slot q := rfl
@[simp] theorem State.shift_qclass (k : PortId) (early : Bool) (b : Byte) (q : QueueId) : (s.shift k early b).qclass q = s.qclass q := rfl
@[simp] theorem State.shift_used (k : PortId) (early : Bool) (b : Byte) (q : Party) : (s.shift k early b).used q = s.used q := rfl
@[simp] theorem State.shift_run (k : PortId) (early : Bool) (b : Byte) (q : Party) : (s.shift k early b).run q = s.run q := rfl
@[simp] theorem State.shift_guar (k : PortId) (early : Bool) (b : Byte) (q : Party) : (s.shift k early b).guar q = s.guar q := rfl
@[simp] theorem State.shift_lim (k : PortId) (early : Bool) (b : Byte) (q : Party) : (s.shift k early b).lim q = s.lim q := rfl
@[simp] theorem State.shift_port (k : PortId) (early : Bool) (b : Byte) (j : PortId) :
    (s.shift k early b).port j = if k = j then ((s.port k).shift early b) else s.port j := by
  simp [State.shift]

/-! ### startTimer -/

@[simp] theorem State.startTimer_mem (k : PortId) : (s.startTimer k).mem = s.mem := rfl
@[simp] theorem State.startTimer_free (k : PortId) : (s.startTimer k).free = s.free := rfl
@[simp] theorem State.startTimer_records (k : PortId) : (s.startTimer k).records = s.records := rfl
@[simp] theorem State.startTimer_slots (k : PortId) : (s.startTimer k).slots = s.slots := rfl
@[simp] theorem State.startTimer_guarantee (k : PortId) : (s.startTimer k).guarantee = s.guarantee := rfl
@[simp] theorem State.startTimer_limit (k : PortId) : (s.startTimer k).limit = s.limit := rfl
@[simp] theorem State.startTimer_usage (k : PortId) : (s.startTimer k).usage = s.usage := rfl
@[simp] theorem State.startTimer_routes (k : PortId) : (s.startTimer k).routes = s.routes := rfl
@[simp] theorem State.startTimer_classes (k : PortId) : (s.startTimer k).classes = s.classes := rfl
@[simp] theorem State.startTimer_uq (k : PortId) : (s.startTimer k).uq = s.uq := rfl
@[simp] theorem State.startTimer_runCount (k : PortId) : (s.startTimer k).runCount = s.runCount := rfl
@[simp] theorem State.startTimer_runLimit (k : PortId) : (s.startTimer k).runLimit = s.runLimit := rfl
@[simp] theorem State.startTimer_links (k : PortId) : (s.startTimer k).links = s.links := rfl
@[simp] theorem State.startTimer_mgrSet (k : PortId) : (s.startTimer k).mgrSet = s.mgrSet := rfl
@[simp] theorem State.startTimer_mgrMask (k : PortId) : (s.startTimer k).mgrMask = s.mgrMask := rfl
@[simp] theorem State.startTimer_manager (k : PortId) : (s.startTimer k).manager = s.manager := rfl
@[simp] theorem State.startTimer_lowMark (k : PortId) : (s.startTimer k).lowMark = s.lowMark := rfl
@[simp] theorem State.startTimer_postTimeout (k : PortId) : (s.startTimer k).postTimeout = s.postTimeout := rfl
@[simp] theorem State.startTimer_ties (k : PortId) : (s.startTimer k).ties = s.ties := rfl
@[simp] theorem State.startTimer_owed (k : PortId) : (s.startTimer k).owed = s.owed := rfl
@[simp] theorem State.startTimer_ahead (k : PortId) : (s.startTimer k).ahead = s.ahead := rfl
@[simp] theorem State.startTimer_pending (k : PortId) : (s.startTimer k).pending = s.pending := rfl
@[simp] theorem State.startTimer_link (k : PortId) (y : LinkId) : (s.startTimer k).link y = s.link y := rfl
@[simp] theorem State.startTimer_record (k : PortId) (i : RecId) : (s.startTimer k).record i = s.record i := rfl
@[simp] theorem State.startTimer_slot (k : PortId) (q : Party) : (s.startTimer k).slot q = s.slot q := rfl
@[simp] theorem State.startTimer_qclass (k : PortId) (q : QueueId) : (s.startTimer k).qclass q = s.qclass q := rfl
@[simp] theorem State.startTimer_used (k : PortId) (q : Party) : (s.startTimer k).used q = s.used q := rfl
@[simp] theorem State.startTimer_run (k : PortId) (q : Party) : (s.startTimer k).run q = s.run q := rfl
@[simp] theorem State.startTimer_guar (k : PortId) (q : Party) : (s.startTimer k).guar q = s.guar q := rfl
@[simp] theorem State.startTimer_lim (k : PortId) (q : Party) : (s.startTimer k).lim q = s.lim q := rfl
@[simp] theorem State.startTimer_port (k : PortId) (j : PortId) :
    (s.startTimer k).port j = if k = j then { s.port k with timer := if s.postTimeout = 0 then none else some s.postTimeout } else s.port j := by
  simp [State.startTimer]

/-! ### setRoute -/

@[simp] theorem State.setRoute_mem (w : Fin 32) (e : RouteEntry) : (s.setRoute w e).mem = s.mem := rfl
@[simp] theorem State.setRoute_free (w : Fin 32) (e : RouteEntry) : (s.setRoute w e).free = s.free := rfl
@[simp] theorem State.setRoute_records (w : Fin 32) (e : RouteEntry) : (s.setRoute w e).records = s.records := rfl
@[simp] theorem State.setRoute_slots (w : Fin 32) (e : RouteEntry) : (s.setRoute w e).slots = s.slots := rfl
@[simp] theorem State.setRoute_guarantee (w : Fin 32) (e : RouteEntry) : (s.setRoute w e).guarantee = s.guarantee := rfl
@[simp] theorem State.setRoute_limit (w : Fin 32) (e : RouteEntry) : (s.setRoute w e).limit = s.limit := rfl
@[simp] theorem State.setRoute_usage (w : Fin 32) (e : RouteEntry) : (s.setRoute w e).usage = s.usage := rfl
@[simp] theorem State.setRoute_classes (w : Fin 32) (e : RouteEntry) : (s.setRoute w e).classes = s.classes := rfl
@[simp] theorem State.setRoute_uq (w : Fin 32) (e : RouteEntry) : (s.setRoute w e).uq = s.uq := rfl
@[simp] theorem State.setRoute_runCount (w : Fin 32) (e : RouteEntry) : (s.setRoute w e).runCount = s.runCount := rfl
@[simp] theorem State.setRoute_runLimit (w : Fin 32) (e : RouteEntry) : (s.setRoute w e).runLimit = s.runLimit := rfl
@[simp] theorem State.setRoute_ports (w : Fin 32) (e : RouteEntry) : (s.setRoute w e).ports = s.ports := rfl
@[simp] theorem State.setRoute_links (w : Fin 32) (e : RouteEntry) : (s.setRoute w e).links = s.links := rfl
@[simp] theorem State.setRoute_mgrSet (w : Fin 32) (e : RouteEntry) : (s.setRoute w e).mgrSet = s.mgrSet := rfl
@[simp] theorem State.setRoute_mgrMask (w : Fin 32) (e : RouteEntry) : (s.setRoute w e).mgrMask = s.mgrMask := rfl
@[simp] theorem State.setRoute_manager (w : Fin 32) (e : RouteEntry) : (s.setRoute w e).manager = s.manager := rfl
@[simp] theorem State.setRoute_lowMark (w : Fin 32) (e : RouteEntry) : (s.setRoute w e).lowMark = s.lowMark := rfl
@[simp] theorem State.setRoute_postTimeout (w : Fin 32) (e : RouteEntry) : (s.setRoute w e).postTimeout = s.postTimeout := rfl
@[simp] theorem State.setRoute_ties (w : Fin 32) (e : RouteEntry) : (s.setRoute w e).ties = s.ties := rfl
@[simp] theorem State.setRoute_owed (w : Fin 32) (e : RouteEntry) : (s.setRoute w e).owed = s.owed := rfl
@[simp] theorem State.setRoute_ahead (w : Fin 32) (e : RouteEntry) : (s.setRoute w e).ahead = s.ahead := rfl
@[simp] theorem State.setRoute_pending (w : Fin 32) (e : RouteEntry) : (s.setRoute w e).pending = s.pending := rfl
@[simp] theorem State.setRoute_port (w : Fin 32) (e : RouteEntry) (j : PortId) : (s.setRoute w e).port j = s.port j := rfl
@[simp] theorem State.setRoute_link (w : Fin 32) (e : RouteEntry) (y : LinkId) : (s.setRoute w e).link y = s.link y := rfl
@[simp] theorem State.setRoute_record (w : Fin 32) (e : RouteEntry) (i : RecId) : (s.setRoute w e).record i = s.record i := rfl
@[simp] theorem State.setRoute_slot (w : Fin 32) (e : RouteEntry) (q : Party) : (s.setRoute w e).slot q = s.slot q := rfl
@[simp] theorem State.setRoute_qclass (w : Fin 32) (e : RouteEntry) (q : QueueId) : (s.setRoute w e).qclass q = s.qclass q := rfl
@[simp] theorem State.setRoute_used (w : Fin 32) (e : RouteEntry) (q : Party) : (s.setRoute w e).used q = s.used q := rfl
@[simp] theorem State.setRoute_run (w : Fin 32) (e : RouteEntry) (q : Party) : (s.setRoute w e).run q = s.run q := rfl
@[simp] theorem State.setRoute_guar (w : Fin 32) (e : RouteEntry) (q : Party) : (s.setRoute w e).guar q = s.guar q := rfl
@[simp] theorem State.setRoute_lim (w : Fin 32) (e : RouteEntry) (q : Party) : (s.setRoute w e).lim q = s.lim q := rfl

/-! ### setRunLimit -/

@[simp] theorem State.setRunLimit_mem (p : Party) (n : Nat) : (s.setRunLimit p n).mem = s.mem := rfl
@[simp] theorem State.setRunLimit_free (p : Party) (n : Nat) : (s.setRunLimit p n).free = s.free := rfl
@[simp] theorem State.setRunLimit_records (p : Party) (n : Nat) : (s.setRunLimit p n).records = s.records := rfl
@[simp] theorem State.setRunLimit_slots (p : Party) (n : Nat) : (s.setRunLimit p n).slots = s.slots := rfl
@[simp] theorem State.setRunLimit_guarantee (p : Party) (n : Nat) : (s.setRunLimit p n).guarantee = s.guarantee := rfl
@[simp] theorem State.setRunLimit_limit (p : Party) (n : Nat) : (s.setRunLimit p n).limit = s.limit := rfl
@[simp] theorem State.setRunLimit_usage (p : Party) (n : Nat) : (s.setRunLimit p n).usage = s.usage := rfl
@[simp] theorem State.setRunLimit_routes (p : Party) (n : Nat) : (s.setRunLimit p n).routes = s.routes := rfl
@[simp] theorem State.setRunLimit_classes (p : Party) (n : Nat) : (s.setRunLimit p n).classes = s.classes := rfl
@[simp] theorem State.setRunLimit_uq (p : Party) (n : Nat) : (s.setRunLimit p n).uq = s.uq := rfl
@[simp] theorem State.setRunLimit_runCount (p : Party) (n : Nat) : (s.setRunLimit p n).runCount = s.runCount := rfl
@[simp] theorem State.setRunLimit_ports (p : Party) (n : Nat) : (s.setRunLimit p n).ports = s.ports := rfl
@[simp] theorem State.setRunLimit_links (p : Party) (n : Nat) : (s.setRunLimit p n).links = s.links := rfl
@[simp] theorem State.setRunLimit_mgrSet (p : Party) (n : Nat) : (s.setRunLimit p n).mgrSet = s.mgrSet := rfl
@[simp] theorem State.setRunLimit_mgrMask (p : Party) (n : Nat) : (s.setRunLimit p n).mgrMask = s.mgrMask := rfl
@[simp] theorem State.setRunLimit_manager (p : Party) (n : Nat) : (s.setRunLimit p n).manager = s.manager := rfl
@[simp] theorem State.setRunLimit_lowMark (p : Party) (n : Nat) : (s.setRunLimit p n).lowMark = s.lowMark := rfl
@[simp] theorem State.setRunLimit_postTimeout (p : Party) (n : Nat) : (s.setRunLimit p n).postTimeout = s.postTimeout := rfl
@[simp] theorem State.setRunLimit_ties (p : Party) (n : Nat) : (s.setRunLimit p n).ties = s.ties := rfl
@[simp] theorem State.setRunLimit_owed (p : Party) (n : Nat) : (s.setRunLimit p n).owed = s.owed := rfl
@[simp] theorem State.setRunLimit_ahead (p : Party) (n : Nat) : (s.setRunLimit p n).ahead = s.ahead := rfl
@[simp] theorem State.setRunLimit_pending (p : Party) (n : Nat) : (s.setRunLimit p n).pending = s.pending := rfl
@[simp] theorem State.setRunLimit_port (p : Party) (n : Nat) (j : PortId) : (s.setRunLimit p n).port j = s.port j := rfl
@[simp] theorem State.setRunLimit_link (p : Party) (n : Nat) (y : LinkId) : (s.setRunLimit p n).link y = s.link y := rfl
@[simp] theorem State.setRunLimit_record (p : Party) (n : Nat) (i : RecId) : (s.setRunLimit p n).record i = s.record i := rfl
@[simp] theorem State.setRunLimit_slot (p : Party) (n : Nat) (q : Party) : (s.setRunLimit p n).slot q = s.slot q := rfl
@[simp] theorem State.setRunLimit_qclass (p : Party) (n : Nat) (q : QueueId) : (s.setRunLimit p n).qclass q = s.qclass q := rfl
@[simp] theorem State.setRunLimit_used (p : Party) (n : Nat) (q : Party) : (s.setRunLimit p n).used q = s.used q := rfl
@[simp] theorem State.setRunLimit_run (p : Party) (n : Nat) (q : Party) : (s.setRunLimit p n).run q = s.run q := rfl
@[simp] theorem State.setRunLimit_guar (p : Party) (n : Nat) (q : Party) : (s.setRunLimit p n).guar q = s.guar q := rfl
@[simp] theorem State.setRunLimit_lim (p : Party) (n : Nat) (q : Party) : (s.setRunLimit p n).lim q = s.lim q := rfl

/-! ### setPostTimeout -/

@[simp] theorem State.setPostTimeout_mem (n : Nat) : (s.setPostTimeout n).mem = s.mem := rfl
@[simp] theorem State.setPostTimeout_free (n : Nat) : (s.setPostTimeout n).free = s.free := rfl
@[simp] theorem State.setPostTimeout_records (n : Nat) : (s.setPostTimeout n).records = s.records := rfl
@[simp] theorem State.setPostTimeout_slots (n : Nat) : (s.setPostTimeout n).slots = s.slots := rfl
@[simp] theorem State.setPostTimeout_guarantee (n : Nat) : (s.setPostTimeout n).guarantee = s.guarantee := rfl
@[simp] theorem State.setPostTimeout_limit (n : Nat) : (s.setPostTimeout n).limit = s.limit := rfl
@[simp] theorem State.setPostTimeout_usage (n : Nat) : (s.setPostTimeout n).usage = s.usage := rfl
@[simp] theorem State.setPostTimeout_routes (n : Nat) : (s.setPostTimeout n).routes = s.routes := rfl
@[simp] theorem State.setPostTimeout_classes (n : Nat) : (s.setPostTimeout n).classes = s.classes := rfl
@[simp] theorem State.setPostTimeout_uq (n : Nat) : (s.setPostTimeout n).uq = s.uq := rfl
@[simp] theorem State.setPostTimeout_runCount (n : Nat) : (s.setPostTimeout n).runCount = s.runCount := rfl
@[simp] theorem State.setPostTimeout_runLimit (n : Nat) : (s.setPostTimeout n).runLimit = s.runLimit := rfl
@[simp] theorem State.setPostTimeout_ports (n : Nat) : (s.setPostTimeout n).ports = s.ports := rfl
@[simp] theorem State.setPostTimeout_links (n : Nat) : (s.setPostTimeout n).links = s.links := rfl
@[simp] theorem State.setPostTimeout_mgrSet (n : Nat) : (s.setPostTimeout n).mgrSet = s.mgrSet := rfl
@[simp] theorem State.setPostTimeout_mgrMask (n : Nat) : (s.setPostTimeout n).mgrMask = s.mgrMask := rfl
@[simp] theorem State.setPostTimeout_manager (n : Nat) : (s.setPostTimeout n).manager = s.manager := rfl
@[simp] theorem State.setPostTimeout_lowMark (n : Nat) : (s.setPostTimeout n).lowMark = s.lowMark := rfl
@[simp] theorem State.setPostTimeout_ties (n : Nat) : (s.setPostTimeout n).ties = s.ties := rfl
@[simp] theorem State.setPostTimeout_owed (n : Nat) : (s.setPostTimeout n).owed = s.owed := rfl
@[simp] theorem State.setPostTimeout_ahead (n : Nat) : (s.setPostTimeout n).ahead = s.ahead := rfl
@[simp] theorem State.setPostTimeout_pending (n : Nat) : (s.setPostTimeout n).pending = s.pending := rfl
@[simp] theorem State.setPostTimeout_port (n : Nat) (j : PortId) : (s.setPostTimeout n).port j = s.port j := rfl
@[simp] theorem State.setPostTimeout_link (n : Nat) (y : LinkId) : (s.setPostTimeout n).link y = s.link y := rfl
@[simp] theorem State.setPostTimeout_record (n : Nat) (i : RecId) : (s.setPostTimeout n).record i = s.record i := rfl
@[simp] theorem State.setPostTimeout_slot (n : Nat) (q : Party) : (s.setPostTimeout n).slot q = s.slot q := rfl
@[simp] theorem State.setPostTimeout_qclass (n : Nat) (q : QueueId) : (s.setPostTimeout n).qclass q = s.qclass q := rfl
@[simp] theorem State.setPostTimeout_used (n : Nat) (q : Party) : (s.setPostTimeout n).used q = s.used q := rfl
@[simp] theorem State.setPostTimeout_run (n : Nat) (q : Party) : (s.setPostTimeout n).run q = s.run q := rfl
@[simp] theorem State.setPostTimeout_guar (n : Nat) (q : Party) : (s.setPostTimeout n).guar q = s.guar q := rfl
@[simp] theorem State.setPostTimeout_lim (n : Nat) (q : Party) : (s.setPostTimeout n).lim q = s.lim q := rfl
@[simp] theorem State.setPostTimeout_postTimeout (n : Nat) : (s.setPostTimeout n).postTimeout = n := rfl

/-! ### setLowMark -/

@[simp] theorem State.setLowMark_mem (n : Nat) : (s.setLowMark n).mem = s.mem := rfl
@[simp] theorem State.setLowMark_free (n : Nat) : (s.setLowMark n).free = s.free := rfl
@[simp] theorem State.setLowMark_records (n : Nat) : (s.setLowMark n).records = s.records := rfl
@[simp] theorem State.setLowMark_slots (n : Nat) : (s.setLowMark n).slots = s.slots := rfl
@[simp] theorem State.setLowMark_guarantee (n : Nat) : (s.setLowMark n).guarantee = s.guarantee := rfl
@[simp] theorem State.setLowMark_limit (n : Nat) : (s.setLowMark n).limit = s.limit := rfl
@[simp] theorem State.setLowMark_usage (n : Nat) : (s.setLowMark n).usage = s.usage := rfl
@[simp] theorem State.setLowMark_routes (n : Nat) : (s.setLowMark n).routes = s.routes := rfl
@[simp] theorem State.setLowMark_classes (n : Nat) : (s.setLowMark n).classes = s.classes := rfl
@[simp] theorem State.setLowMark_uq (n : Nat) : (s.setLowMark n).uq = s.uq := rfl
@[simp] theorem State.setLowMark_runCount (n : Nat) : (s.setLowMark n).runCount = s.runCount := rfl
@[simp] theorem State.setLowMark_runLimit (n : Nat) : (s.setLowMark n).runLimit = s.runLimit := rfl
@[simp] theorem State.setLowMark_ports (n : Nat) : (s.setLowMark n).ports = s.ports := rfl
@[simp] theorem State.setLowMark_links (n : Nat) : (s.setLowMark n).links = s.links := rfl
@[simp] theorem State.setLowMark_mgrSet (n : Nat) : (s.setLowMark n).mgrSet = s.mgrSet := rfl
@[simp] theorem State.setLowMark_mgrMask (n : Nat) : (s.setLowMark n).mgrMask = s.mgrMask := rfl
@[simp] theorem State.setLowMark_manager (n : Nat) : (s.setLowMark n).manager = s.manager := rfl
@[simp] theorem State.setLowMark_postTimeout (n : Nat) : (s.setLowMark n).postTimeout = s.postTimeout := rfl
@[simp] theorem State.setLowMark_ties (n : Nat) : (s.setLowMark n).ties = s.ties := rfl
@[simp] theorem State.setLowMark_owed (n : Nat) : (s.setLowMark n).owed = s.owed := rfl
@[simp] theorem State.setLowMark_ahead (n : Nat) : (s.setLowMark n).ahead = s.ahead := rfl
@[simp] theorem State.setLowMark_pending (n : Nat) : (s.setLowMark n).pending = s.pending := rfl
@[simp] theorem State.setLowMark_port (n : Nat) (j : PortId) : (s.setLowMark n).port j = s.port j := rfl
@[simp] theorem State.setLowMark_link (n : Nat) (y : LinkId) : (s.setLowMark n).link y = s.link y := rfl
@[simp] theorem State.setLowMark_record (n : Nat) (i : RecId) : (s.setLowMark n).record i = s.record i := rfl
@[simp] theorem State.setLowMark_slot (n : Nat) (q : Party) : (s.setLowMark n).slot q = s.slot q := rfl
@[simp] theorem State.setLowMark_qclass (n : Nat) (q : QueueId) : (s.setLowMark n).qclass q = s.qclass q := rfl
@[simp] theorem State.setLowMark_used (n : Nat) (q : Party) : (s.setLowMark n).used q = s.used q := rfl
@[simp] theorem State.setLowMark_run (n : Nat) (q : Party) : (s.setLowMark n).run q = s.run q := rfl
@[simp] theorem State.setLowMark_guar (n : Nat) (q : Party) : (s.setLowMark n).guar q = s.guar q := rfl
@[simp] theorem State.setLowMark_lim (n : Nat) (q : Party) : (s.setLowMark n).lim q = s.lim q := rfl
@[simp] theorem State.setLowMark_lowMark (n : Nat) : (s.setLowMark n).lowMark = n := rfl

/-! ### setPortAddr -/

@[simp] theorem State.setPortAddr_mem (k : PortId) (a : Byte) : (s.setPortAddr k a).mem = s.mem := rfl
@[simp] theorem State.setPortAddr_free (k : PortId) (a : Byte) : (s.setPortAddr k a).free = s.free := rfl
@[simp] theorem State.setPortAddr_records (k : PortId) (a : Byte) : (s.setPortAddr k a).records = s.records := rfl
@[simp] theorem State.setPortAddr_slots (k : PortId) (a : Byte) : (s.setPortAddr k a).slots = s.slots := rfl
@[simp] theorem State.setPortAddr_guarantee (k : PortId) (a : Byte) : (s.setPortAddr k a).guarantee = s.guarantee := rfl
@[simp] theorem State.setPortAddr_limit (k : PortId) (a : Byte) : (s.setPortAddr k a).limit = s.limit := rfl
@[simp] theorem State.setPortAddr_usage (k : PortId) (a : Byte) : (s.setPortAddr k a).usage = s.usage := rfl
@[simp] theorem State.setPortAddr_routes (k : PortId) (a : Byte) : (s.setPortAddr k a).routes = s.routes := rfl
@[simp] theorem State.setPortAddr_classes (k : PortId) (a : Byte) : (s.setPortAddr k a).classes = s.classes := rfl
@[simp] theorem State.setPortAddr_uq (k : PortId) (a : Byte) : (s.setPortAddr k a).uq = s.uq := rfl
@[simp] theorem State.setPortAddr_runCount (k : PortId) (a : Byte) : (s.setPortAddr k a).runCount = s.runCount := rfl
@[simp] theorem State.setPortAddr_runLimit (k : PortId) (a : Byte) : (s.setPortAddr k a).runLimit = s.runLimit := rfl
@[simp] theorem State.setPortAddr_links (k : PortId) (a : Byte) : (s.setPortAddr k a).links = s.links := rfl
@[simp] theorem State.setPortAddr_mgrSet (k : PortId) (a : Byte) : (s.setPortAddr k a).mgrSet = s.mgrSet := rfl
@[simp] theorem State.setPortAddr_mgrMask (k : PortId) (a : Byte) : (s.setPortAddr k a).mgrMask = s.mgrMask := rfl
@[simp] theorem State.setPortAddr_manager (k : PortId) (a : Byte) : (s.setPortAddr k a).manager = s.manager := rfl
@[simp] theorem State.setPortAddr_lowMark (k : PortId) (a : Byte) : (s.setPortAddr k a).lowMark = s.lowMark := rfl
@[simp] theorem State.setPortAddr_postTimeout (k : PortId) (a : Byte) : (s.setPortAddr k a).postTimeout = s.postTimeout := rfl
@[simp] theorem State.setPortAddr_ties (k : PortId) (a : Byte) : (s.setPortAddr k a).ties = s.ties := rfl
@[simp] theorem State.setPortAddr_owed (k : PortId) (a : Byte) : (s.setPortAddr k a).owed = s.owed := rfl
@[simp] theorem State.setPortAddr_ahead (k : PortId) (a : Byte) : (s.setPortAddr k a).ahead = s.ahead := rfl
@[simp] theorem State.setPortAddr_pending (k : PortId) (a : Byte) : (s.setPortAddr k a).pending = s.pending := rfl
@[simp] theorem State.setPortAddr_link (k : PortId) (a : Byte) (y : LinkId) : (s.setPortAddr k a).link y = s.link y := rfl
@[simp] theorem State.setPortAddr_record (k : PortId) (a : Byte) (i : RecId) : (s.setPortAddr k a).record i = s.record i := rfl
@[simp] theorem State.setPortAddr_slot (k : PortId) (a : Byte) (q : Party) : (s.setPortAddr k a).slot q = s.slot q := rfl
@[simp] theorem State.setPortAddr_qclass (k : PortId) (a : Byte) (q : QueueId) : (s.setPortAddr k a).qclass q = s.qclass q := rfl
@[simp] theorem State.setPortAddr_used (k : PortId) (a : Byte) (q : Party) : (s.setPortAddr k a).used q = s.used q := rfl
@[simp] theorem State.setPortAddr_run (k : PortId) (a : Byte) (q : Party) : (s.setPortAddr k a).run q = s.run q := rfl
@[simp] theorem State.setPortAddr_guar (k : PortId) (a : Byte) (q : Party) : (s.setPortAddr k a).guar q = s.guar q := rfl
@[simp] theorem State.setPortAddr_lim (k : PortId) (a : Byte) (q : Party) : (s.setPortAddr k a).lim q = s.lim q := rfl
@[simp] theorem State.setPortAddr_port (k : PortId) (a : Byte) (j : PortId) :
    (s.setPortAddr k a).port j = if k = j then { s.port k with portAddr := a } else s.port j := by
  simp [State.setPortAddr]

/-! ### setCtrl -/

@[simp] theorem State.setCtrl_mem (x : LinkId) (c : LinkCtrl) : (s.setCtrl x c).mem = s.mem := rfl
@[simp] theorem State.setCtrl_free (x : LinkId) (c : LinkCtrl) : (s.setCtrl x c).free = s.free := rfl
@[simp] theorem State.setCtrl_records (x : LinkId) (c : LinkCtrl) : (s.setCtrl x c).records = s.records := rfl
@[simp] theorem State.setCtrl_slots (x : LinkId) (c : LinkCtrl) : (s.setCtrl x c).slots = s.slots := rfl
@[simp] theorem State.setCtrl_guarantee (x : LinkId) (c : LinkCtrl) : (s.setCtrl x c).guarantee = s.guarantee := rfl
@[simp] theorem State.setCtrl_limit (x : LinkId) (c : LinkCtrl) : (s.setCtrl x c).limit = s.limit := rfl
@[simp] theorem State.setCtrl_usage (x : LinkId) (c : LinkCtrl) : (s.setCtrl x c).usage = s.usage := rfl
@[simp] theorem State.setCtrl_routes (x : LinkId) (c : LinkCtrl) : (s.setCtrl x c).routes = s.routes := rfl
@[simp] theorem State.setCtrl_classes (x : LinkId) (c : LinkCtrl) : (s.setCtrl x c).classes = s.classes := rfl
@[simp] theorem State.setCtrl_uq (x : LinkId) (c : LinkCtrl) : (s.setCtrl x c).uq = s.uq := rfl
@[simp] theorem State.setCtrl_runCount (x : LinkId) (c : LinkCtrl) : (s.setCtrl x c).runCount = s.runCount := rfl
@[simp] theorem State.setCtrl_runLimit (x : LinkId) (c : LinkCtrl) : (s.setCtrl x c).runLimit = s.runLimit := rfl
@[simp] theorem State.setCtrl_ports (x : LinkId) (c : LinkCtrl) : (s.setCtrl x c).ports = s.ports := rfl
@[simp] theorem State.setCtrl_mgrSet (x : LinkId) (c : LinkCtrl) : (s.setCtrl x c).mgrSet = s.mgrSet := rfl
@[simp] theorem State.setCtrl_mgrMask (x : LinkId) (c : LinkCtrl) : (s.setCtrl x c).mgrMask = s.mgrMask := rfl
@[simp] theorem State.setCtrl_manager (x : LinkId) (c : LinkCtrl) : (s.setCtrl x c).manager = s.manager := rfl
@[simp] theorem State.setCtrl_lowMark (x : LinkId) (c : LinkCtrl) : (s.setCtrl x c).lowMark = s.lowMark := rfl
@[simp] theorem State.setCtrl_postTimeout (x : LinkId) (c : LinkCtrl) : (s.setCtrl x c).postTimeout = s.postTimeout := rfl
@[simp] theorem State.setCtrl_ties (x : LinkId) (c : LinkCtrl) : (s.setCtrl x c).ties = s.ties := rfl
@[simp] theorem State.setCtrl_owed (x : LinkId) (c : LinkCtrl) : (s.setCtrl x c).owed = s.owed := rfl
@[simp] theorem State.setCtrl_ahead (x : LinkId) (c : LinkCtrl) : (s.setCtrl x c).ahead = s.ahead := rfl
@[simp] theorem State.setCtrl_pending (x : LinkId) (c : LinkCtrl) : (s.setCtrl x c).pending = s.pending := rfl
@[simp] theorem State.setCtrl_port (x : LinkId) (c : LinkCtrl) (j : PortId) : (s.setCtrl x c).port j = s.port j := rfl
@[simp] theorem State.setCtrl_record (x : LinkId) (c : LinkCtrl) (i : RecId) : (s.setCtrl x c).record i = s.record i := rfl
@[simp] theorem State.setCtrl_slot (x : LinkId) (c : LinkCtrl) (q : Party) : (s.setCtrl x c).slot q = s.slot q := rfl
@[simp] theorem State.setCtrl_qclass (x : LinkId) (c : LinkCtrl) (q : QueueId) : (s.setCtrl x c).qclass q = s.qclass q := rfl
@[simp] theorem State.setCtrl_used (x : LinkId) (c : LinkCtrl) (q : Party) : (s.setCtrl x c).used q = s.used q := rfl
@[simp] theorem State.setCtrl_run (x : LinkId) (c : LinkCtrl) (q : Party) : (s.setCtrl x c).run q = s.run q := rfl
@[simp] theorem State.setCtrl_guar (x : LinkId) (c : LinkCtrl) (q : Party) : (s.setCtrl x c).guar q = s.guar q := rfl
@[simp] theorem State.setCtrl_lim (x : LinkId) (c : LinkCtrl) (q : Party) : (s.setCtrl x c).lim q = s.lim q := rfl
@[simp] theorem State.setCtrl_link (x : LinkId) (c : LinkCtrl) (y : LinkId) :
    (s.setCtrl x c).link y = if x = y then { s.link x with ctrl := c } else s.link y := by
  simp [State.setCtrl]

/-! ### One update after another at the same place -/

@[simp] theorem vset_vset {α : Type} {n : Nat} (v : Vector α n) (i : Fin n) (a b : α) :
    vset (vset v i a) i b = vset v i b := by
  apply vget_ext
  intro j
  simp only [vget_vset]
  split <;> rfl

@[simp] theorem vset_vget {α : Type} {n : Nat} (v : Vector α n) (i : Fin n) : vset v i (vget v i) = v := by
  apply vget_ext
  intro j
  rw [vget_vset]
  split
  · rename_i h; rw [h]
  · rfl

@[simp] theorem State.setPort_setPort (k : PortId) (p q : Port) : (s.setPort k p).setPort k q = s.setPort k q := by
  simp [State.setPort]

@[simp] theorem State.setLink_setLink (x : LinkId) (p q : Link) : (s.setLink x p).setLink x q = s.setLink x q := by
  simp [State.setLink]

@[simp] theorem State.setRecord_setRecord (n : RecId) (p q : Option Record) :
    (s.setRecord n p).setRecord n q = s.setRecord n q := by
  simp [State.setRecord]

@[simp] theorem State.setClass_setClass (c : QueueId) (p q : QueueClass) :
    (s.setClass c p).setClass c q = s.setClass c q := by
  simp [State.setClass]

@[simp] theorem State.setPort_self (k : PortId) : s.setPort k (s.port k) = s := by
  simp [State.setPort, State.port]

@[simp] theorem State.setLink_self (x : LinkId) : s.setLink x (s.link x) = s := by
  simp [State.setLink, State.link]

/-! ### owe and noteFalls -/

@[simp] theorem State.owe_owed (ls : List LinkId) : (s.owe ls).owed = ls := rfl
@[simp] theorem State.owe_port (ls : List LinkId) (j : PortId) : (s.owe ls).port j = s.port j := rfl
@[simp] theorem State.owe_link (ls : List LinkId) (y : LinkId) : (s.owe ls).link y = s.link y := rfl
@[simp] theorem State.owe_used (ls : List LinkId) (q : Party) : (s.owe ls).used q = s.used q := rfl
@[simp] theorem State.owe_free (ls : List LinkId) : (s.owe ls).free = s.free := rfl
@[simp] theorem State.noteFalls_port (b : State) (f : List QueueId) (j : PortId) : (s.noteFalls b f).port j = s.port j := rfl
@[simp] theorem State.noteFalls_link (b : State) (f : List QueueId) (y : LinkId) : (s.noteFalls b f).link y = s.link y := rfl
@[simp] theorem State.noteFalls_used (b : State) (f : List QueueId) (q : Party) : (s.noteFalls b f).used q = s.used q := rfl
@[simp] theorem State.noteFalls_free (b : State) (f : List QueueId) : (s.noteFalls b f).free = s.free := rfl

end Machine

end Sys2Proof
end

