-- ==== Sys2Proof/Laws/Accounts.lean ====
section
/-! SUPPORT. The spec lemmas of the operations at the accounts (chapter 2): what a low-mark test, a reserve one, the
judging of watches and a whole accounts event can do. -/

namespace Sys2Proof.Machine

open Sys2Proof.Safety

/-- Satisfying a watch and noting a manager raise are independent. -/
theorem Port.satisfy_noteMgr (p : Port) (e : MgrEvent) : (p.noteMgr e).satisfy = p.satisfy.noteMgr e := by
  cases h : p.snapshot <;> simp [Port.noteMgr, Port.satisfy, Port.raise, h, Snapshot.noteMgr, Snapshot.noteHost]

/-- A low-mark test leaves the state, or raises CELLS LOW (R4). -/
theorem State.lowMarkTest_cases (s : State) (n : Nat) :
    s.lowMarkTest n = s ∨ s.lowMarkTest n = s.raiseMgr .cellsLow := by
  unfold State.lowMarkTest
  split
  · exact .inr rfl
  · exact .inl rfl

/-- A link that may reserve is ACTIVE, below its window and granted one cell (R30). -/
theorem State.canReserve_spec {s : State} {x : LinkId} (h : s.canReserve x = true) :
    (s.link x).state = .active ∧ (s.link x).reserved.length < (s.link x).ctrl.window ∧ s.grants (.link x) 1 = true := by
  simpa [State.canReserve, and_assoc] using h

/-- The next contender is one that stands, and choosing it changes the count of contentions at most (R28). -/
theorem State.nextContender_spec {s s' : State} {ls : List LinkId} {w : Bool} {c : Contender}
    (h : s.nextContender ls w = some (c, s')) :
    c ∈ s.contenders ls w ∧ ∃ n, s' = { s with ties := n } := by
  unfold State.nextContender at h
  split at h
  · cases h
  · rename_i c' hc
    cases h
    exact ⟨by simp [hc], s.ties, rfl⟩
  · rename_i c' cs hne hc
    simp only [Option.some.injEq, Prod.mk.injEq] at h
    obtain ⟨h1, rfl⟩ := h
    refine ⟨?_, _, rfl⟩
    rw [hc, ← h1]
    have hl : Config.freeTie s.ties % (c' :: cs).length < (c' :: cs).length := Nat.mod_lt _ (by simp)
    rw [List.getD_eq_getElem _ _ hl]
    exact List.getElem_mem _

/-- What comes between is a command that waits, and meets the accounts (R28). -/
theorem State.comesBetween_spec {s : State} (h : s.comesBetween = true) :
    ∃ c, s.pending.head? = some c ∧ s.meetsAccounts c = true := by
  unfold State.comesBetween at h
  split at h
  · cases h
  · rename_i c cs hc
    exact ⟨c, by rw [hc]; rfl, h⟩

/-- The marks of the model have no part in what comes between. -/
@[simp] theorem State.comesBetween_marks (s : State) (n : Nat) (ls : List LinkId) (o : Option QueueId) :
    State.comesBetween { s with ties := n, owed := ls, ahead := o } = s.comesBetween := rfl

/-- The command that waits next comes between only once the watches are judged and while a link can reserve (R28). -/
theorem State.mem_contenders_command {s : State} {ls : List LinkId} {w : Bool}
    (h : Contender.command ∈ s.contenders ls w) :
    (w && s.anyCellsWatch) = false ∧ s.comesBetween = true ∧ ∃ x ∈ ls, s.canReserve x = true := by
  unfold State.contenders at h
  rw [List.mem_append] at h
  rcases h with h | h
  · split at h
    · simp at h
    · rename_i hw
      split at h
      · rename_i hc
        simp only [Bool.and_eq_true, List.any_eq_true] at hc
        exact ⟨by simpa using hw, hc.1, hc.2⟩
      · simp at h
  · simp at h

/-- A link contender is one of the links asked and may reserve. -/
theorem State.mem_contenders_link {s : State} {ls : List LinkId} {w : Bool} {x : LinkId}
    (h : Contender.link x ∈ s.contenders ls w) : x ∈ ls ∧ s.canReserve x = true := by
  unfold State.contenders at h
  rw [List.mem_append] at h
  rcases h with h | h
  · split at h
    · simp at h
    · split at h <;> simp at h
  · simpa using h

end Sys2Proof.Machine

namespace Sys2Proof.Safety

open Sys2Proof.Machine

/-- Where the free list stands, no low mark is passed. -/
theorem LowMarkPassed.not_of_free {s t : State} (h : t.free = s.free) : ¬LowMarkPassed s t := by
  rintro ⟨-, h1, h2⟩
  rw [h] at h2
  omega

/-- What leaves the free list and the accounts, and on each port at most satisfies a watch that stands, is within what an
accounts event can do. -/
theorem OnlyAccounts.ofPorts {s t : State}
    (h : t = { s with ports := t.ports, ties := t.ties, owed := t.owed, ahead := t.ahead })
    (hp : ∀ k, t.port k = s.port k ∨ (s.port k).watch ≠ .absent ∧ t.port k = (s.port k).satisfy) :
    OnlyAccounts s t := by
  have hn : ¬LowMarkPassed s t := LowMarkPassed.not_of_free (by rw [h])
  constructor
  · rw [h]
  · intro k; rw [h]; rfl
  · exact ⟨[], by rw [h]; rfl, fun x => by rw [h]; simp [State.link, State.used]⟩
  · exact fun k => ⟨t.port k, hp k, by rw [if_neg hn]⟩
  · rw [if_neg hn, h]

theorem OnlyAccounts.refl (s : State) : OnlyAccounts s s := .ofPorts rfl fun _ => .inl rfl

/-- An event takes cells off the free list and leaves the low mark. -/
theorem OnlyAccounts.low {s t : State} (h : OnlyAccounts s t) :
    t.lowMark = s.lowMark ∧ t.free.length ≤ s.free.length := by
  obtain ⟨cs, hf, -⟩ := h.cells
  exact ⟨by rw [h.rest], by rw [hf]; simp⟩

/-- An event leaves the queue of commands. -/
theorem OnlyAccounts.pending {s t : State} (h : OnlyAccounts s t) : t.pending = s.pending := by rw [h.rest]

/-- The low mark is passed between `s` and `u` exactly when it is passed before `t` or after it. -/
theorem OnlyAccounts.passed {s t u : State} (h : OnlyAccounts s t) (g : OnlyAccounts t u) :
    (LowMarkPassed s u ↔ LowMarkPassed s t ∨ LowMarkPassed t u) ∧ ¬(LowMarkPassed s t ∧ LowMarkPassed t u) := by
  obtain ⟨h1, h2⟩ := h.low
  obtain ⟨g1, g2⟩ := g.low
  unfold LowMarkPassed
  rw [h1]
  omega

theorem OnlyAccounts.trans {s t u : State} (h : OnlyAccounts s t) (g : OnlyAccounts t u) : OnlyAccounts s u where
  rest := by have := g.rest; rw [h.rest] at this; exact this
  hosts k := (g.hosts k).trans (h.hosts k)
  cells := by
    obtain ⟨cs, h1, h2⟩ := h.cells
    obtain ⟨ds, g1, g2⟩ := g.cells
    refine ⟨cs ++ ds, by rw [h1, g1]; simp, fun x => ?_⟩
    obtain ⟨h3, h4⟩ := h2 x
    obtain ⟨g3, g4⟩ := g2 x
    exact ⟨by rw [g3, h3]; simp [Nat.add_assoc], by rw [g4, h4]; simp [Nat.add_assoc]⟩
  ports k := by
    obtain ⟨p, hp, h1⟩ := h.ports k
    obtain ⟨q, hq, g1⟩ := g.ports k
    obtain ⟨hiff, hnot⟩ := h.passed g
    by_cases a : LowMarkPassed s t
    · have b : ¬LowMarkPassed t u := fun b => hnot ⟨a, b⟩
      rw [if_pos a] at h1
      rw [if_neg b] at g1
      simp only [if_pos (hiff.mpr (.inl a)), g1]
      rcases hq with rfl | ⟨hw, rfl⟩
      · exact ⟨p, hp, h1⟩
      · rw [h1] at hw ⊢
        rcases hp with rfl | ⟨-, rfl⟩
        · exact ⟨(s.port k).satisfy, .inr ⟨hw, rfl⟩, Port.satisfy_noteMgr _ _⟩
        · exact absurd rfl hw
    · rw [if_neg a] at h1
      have e : LowMarkPassed s u ↔ LowMarkPassed t u := by rw [hiff]; simp [a]
      simp only [e]
      rcases hq with rfl | ⟨hw, rfl⟩
      · exact ⟨p, hp, by rw [g1, h1]⟩
      · rw [h1] at hw g1
        rcases hp with rfl | ⟨-, rfl⟩
        · exact ⟨_, .inr ⟨hw, rfl⟩, g1⟩
        · exact absurd rfl hw
  manager := by
    obtain ⟨hiff, hnot⟩ := h.passed g
    rw [g.manager, h.manager]
    by_cases a : LowMarkPassed s t
    · rw [if_neg fun b => hnot ⟨a, b⟩, if_pos a, if_pos (hiff.mpr (.inl a))]
    · have e : LowMarkPassed s u ↔ LowMarkPassed t u := by rw [hiff]; simp [a]
      simp only [if_neg a, e]

end Sys2Proof.Safety

namespace Sys2Proof.Machine

open Sys2Proof.Safety

/-- A reserve one is within what an accounts event can do (R3, R4, R30). -/
theorem onlyAccounts_reserveOne (s : State) (x : LinkId) : OnlyAccounts s (s.reserveOne x) := by
  unfold State.reserveOne
  split
  · exact .refl s
  · rename_i c rest hf
    have key :
        ∀ (u : State) (b : Prop) [Decidable b],
          u =
              ((s.setFree rest).setLink x
                  { s.link x with
                    reserved := (s.link x).reserved ++ [c], pendingGrants := (s.link x).pendingGrants + 1 }).setUsed
                (.link x) (s.used (.link x) + 1) →
            (b ↔ LowMarkPassed s u) → OnlyAccounts s (if b then u.raiseMgr .cellsLow else u) := by
      rintro u b _ hu hb
      have e : LowMarkPassed s (if b then u.raiseMgr .cellsLow else u) ↔ b := by
        refine Iff.trans ?_ hb.symm
        split <;> exact Iff.rfl
      subst hu
      constructor
      · split <;> rfl
      · intro k; split <;> simp
      · refine ⟨[(x, c)], by rw [hf]; split <;> simp, fun y => ?_⟩
        by_cases hy : x = y
        · subst hy; split <;> simp
        · split <;> simp [hy]
      · intro k
        refine ⟨s.port k, .inl rfl, ?_⟩
        simp only [e]
        split <;> simp
      · simp only [e]
        split <;> simp
    refine key _ _ rfl ?_
    simp [LowMarkPassed]

/-- Judging one port's CELLS watch leaves the state, or satisfies a CELLS watch whose claim is granted (R39). -/
theorem State.judgeCellsOf_cases (s : State) (k : PortId) :
    s.judgeCellsOf k = s ∨
      (∃ n, (s.port k).watch = .cells n ∧ 1 ≤ n ∧ s.grants (.host k) n = true) ∧
        s.judgeCellsOf k = s.setPort k (s.port k).satisfy := by
  unfold State.judgeCellsOf
  split
  · rename_i n h
    split
    · rename_i hn
      exact .inr ⟨⟨n, h, hn.1, hn.2⟩, rfl⟩
    · exact .inl rfl
  · exact .inl rfl

theorem onlyAccounts_judgeCellsOf (s : State) (k : PortId) : OnlyAccounts s (s.judgeCellsOf k) := by
  rcases s.judgeCellsOf_cases k with h | ⟨⟨n, hw, -⟩, h⟩ <;> rw [h]
  · exact .refl s
  · refine .ofPorts rfl fun j => ?_
    by_cases hj : k = j
    · subst hj; exact .inr ⟨by simp [hw], by simp⟩
    · exact .inl (by simp [hj])

/-- Judging the CELLS watches is within what an accounts event can do (R38). -/
theorem onlyAccounts_judgeCells (s : State) : OnlyAccounts s s.judgeCells :=
  (((onlyAccounts_judgeCellsOf s 0).trans (onlyAccounts_judgeCellsOf _ 1)).trans (onlyAccounts_judgeCellsOf _ 2)).trans
    (onlyAccounts_judgeCellsOf _ 3)

theorem onlyAccounts_ties (s : State) (n : Nat) : OnlyAccounts s { s with ties := n } :=
  .ofPorts rfl fun _ => .inl rfl

/-- Leaving reserve ones to be made changes nothing but the model's own list. -/
theorem onlyAccounts_owe (s : State) (ls : List LinkId) : OnlyAccounts s (s.owe ls) := .ofPorts rfl fun _ => .inl rfl

theorem onlyAccounts_contend (fuel : Nat) (ls : List LinkId) (w : Bool) (s : State) :
    OnlyAccounts s (State.contend fuel ls w s) := by
  induction fuel generalizing w s with
  | zero => exact .refl s
  | succ n ih =>
    unfold State.contend
    split
    · exact .refl s
    · rename_i s' h
      obtain ⟨-, m, rfl⟩ := State.nextContender_spec h
      exact ((onlyAccounts_ties s m).trans (onlyAccounts_judgeCells _)).trans (ih _ _)
    · rename_i x s' h
      obtain ⟨-, m, rfl⟩ := State.nextContender_spec h
      exact ((onlyAccounts_ties s m).trans (onlyAccounts_reserveOne _ x)).trans (ih _ _)
    · rename_i s' h
      obtain ⟨-, m, rfl⟩ := State.nextContender_spec h
      exact (onlyAccounts_ties s m).trans (onlyAccounts_owe _ ls)

/-- All that an event at the accounts can do (R28, R30, R31, R38, R39). -/
theorem onlyAccounts_event (s : State) (ls : List LinkId) (w : Bool) : OnlyAccounts s (s.accountsEvent ls w) :=
  (onlyAccounts_owe s []).trans (onlyAccounts_contend _ _ _ _)

/-- The links that try: those asked and those whose reserve ones were left. -/
theorem State.mem_trying {s : State} {ls : List LinkId} {x : LinkId} : x ∈ s.trying ls ↔ x ∈ s.owed ∨ x ∈ ls := by
  have hb : x ∈ bothLinks := by revert x; decide
  simp [State.trying, hb]

/-- With nothing left to be made, resuming changes nothing. -/
theorem State.resume_nil {s : State} (h : s.owed = []) : s.resume = s := by
  have e : ({ s with owed := [] } : State) = s := by rw [← h]
  have n : s.trying [] = [] := by simp [State.trying, h]
  unfold State.resume State.accountsEvent
  rw [n, e]
  simp [State.contend, State.nextContender, State.contenders]

/-- Making the reserve ones left is within what an event at the accounts can do (R28). -/
theorem onlyAccounts_resume (s : State) : OnlyAccounts s s.resume := onlyAccounts_event _ _ _

/-- With no reserve one left of the link, there is nothing to finish. -/
theorem State.finish_nil {s : State} {x : LinkId} (h : x ∉ s.owed) : s.finish x = s := by
  have e : s.owed.filter (· == x) = [] := by
    simp only [List.filter_eq_nil_iff, beq_iff_eq]
    rintro y hy rfl
    exact h hy
  have n : s.owed.filter (· != x) = s.owed := by
    simp only [List.filter_eq_self, bne_iff_ne]
    rintro y hy rfl
    exact h hy
  unfold State.finish
  rw [State.resume_nil (by exact e), n]

/-- After finishing, no reserve one is left of the link, and those of the other stand. -/
theorem State.mem_finish_owed {s : State} {x y : LinkId} : y ∈ (s.finish x).owed ↔ y ∈ s.owed ∧ y ≠ x := by
  simp [State.finish]

@[simp] theorem State.finish_finish (s : State) (x : LinkId) : (s.finish x).finish x = s.finish x :=
  State.finish_nil fun h => (State.mem_finish_owed.mp h).2 rfl

/-- Finishing the reserve ones of a link is within what an event at the accounts can do (R28, R153). -/
theorem onlyAccounts_finish (s : State) (x : LinkId) : OnlyAccounts s (s.finish x) := by
  have h := onlyAccounts_resume { s with pending := [], owed := s.owed.filter (· == x) }
  constructor
  · have r := h.rest
    unfold State.finish
    rw [r]
  · exact h.hosts
  · exact h.cells
  · exact h.ports
  · exact h.manager

/-- A reserve one leaves the model's own list. -/
theorem State.reserveOne_owed (s : State) (x : LinkId) : (s.reserveOne x).owed = s.owed := by
  unfold State.reserveOne
  split
  · rfl
  · rcases State.lowMarkTest_cases _ _ with h | h <;> rw [h] <;> simp

theorem State.judgeCellsOf_owed (s : State) (k : PortId) : (s.judgeCellsOf k).owed = s.owed := by
  rcases s.judgeCellsOf_cases k with h | ⟨-, h⟩ <;> rw [h]
  simp

/-- Judging the CELLS watches leaves the model's own list. -/
theorem State.judgeCells_owed (s : State) : s.judgeCells.owed = s.owed := by
  simp only [State.judgeCells, State.judgeCellsOf_owed]

/-- What an event leaves to be made it leaves to the links that try, and only while the command that waits next is one that
comes between (R28). -/
theorem State.contend_owed (fuel : Nat) (ls : List LinkId) (w : Bool) (s : State) :
    let t := State.contend fuel ls w s
    t.owed = s.owed ∨ t.comesBetween = true ∧ t.owed = ls := by
  induction fuel generalizing w s with
  | zero => exact .inl rfl
  | succ n ih =>
    unfold State.contend
    split
    · exact .inl rfl
    · rename_i s' h
      obtain ⟨-, m, rfl⟩ := State.nextContender_spec h
      have e := ih false ({ s with ties := m } : State).judgeCells
      rwa [State.judgeCells_owed] at e
    · rename_i x s' h
      obtain ⟨-, m, rfl⟩ := State.nextContender_spec h
      have e := ih w (({ s with ties := m } : State).reserveOne x)
      rwa [State.reserveOne_owed] at e
    · rename_i s' h
      obtain ⟨hm, m, rfl⟩ := State.nextContender_spec h
      exact .inr ⟨(State.mem_contenders_command hm).2.1, rfl⟩

/-- What an event at the accounts leaves to be made (R28). -/
theorem State.accountsEvent_owed (s : State) (ls : List LinkId) (w : Bool) :
    let t := s.accountsEvent ls w
    t.owed = [] ∨ t.comesBetween = true ∧ t.owed = s.trying ls :=
  State.contend_owed _ _ _ _

end Sys2Proof.Machine
end

