-- ==== Sys2Proof/Laws/Memory.lean ====
section
/-! SUPPORT. The laws of the cell pool's bytes: every memory operation keeps the canonical form, a byte written is the byte
read, and every other byte stands. -/

namespace Sys2Proof.Machine

theorem Memory.wfFrom_mono {lo : Option Nat} {b : Nat} {m : Memory} (h : Memory.wfFrom (some b) m = true)
    (hlo : ∀ l, lo = some l → l < b ∨ l = b) : Memory.wfFrom lo m = true := by
  cases m with
  | nil => rfl
  | cons e t =>
    obtain ⟨a, v⟩ := e
    simp only [Memory.wfFrom, aboveBound, Bool.and_eq_true, decide_eq_true_eq] at h ⊢
    refine ⟨⟨?_, h.1.2⟩, h.2⟩
    cases lo with
    | none => rfl
    | some l => have := hlo l rfl; simp only [decide_eq_true_eq]; omega

/-- A write keeps the canonical form above a bound, if it writes above the bound. -/
theorem Memory.wfFrom_write {lo : Option Nat} {m : Memory} (a : Nat) (v : Byte) (h : Memory.wfFrom lo m = true)
    (ha : ∀ l, lo = some l → l < a) : Memory.wfFrom lo (m.write a v) = true := by
  have hlo : aboveBound lo a = true := by
    cases lo with
    | none => rfl
    | some l => simpa [aboveBound] using ha l rfl
  induction m generalizing lo with
  | nil =>
    simp only [Memory.write]
    split
    · rfl
    · rename_i hv
      simp only [Memory.wfFrom, Bool.and_true, Bool.and_eq_true, bne_iff_ne]
      exact ⟨hlo, hv⟩
  | cons e t ih =>
    obtain ⟨b, w⟩ := e
    have h' := h
    simp only [Memory.wfFrom, Bool.and_eq_true, bne_iff_ne] at h'
    obtain ⟨⟨h1, h2⟩, h3⟩ := h'
    simp only [Memory.write]
    split
    · rename_i hab
      split
      · exact h
      · rename_i hv
        simp only [Memory.wfFrom, Bool.and_eq_true, bne_iff_ne]
        exact ⟨⟨hlo, hv⟩, ⟨by simpa [aboveBound] using hab, h2⟩, h3⟩
    · split
      · rename_i hab
        subst hab
        split
        · exact Memory.wfFrom_mono h3 (fun l hl => .inl (ha l hl))
        · rename_i hv
          simp only [Memory.wfFrom, Bool.and_eq_true, bne_iff_ne]
          exact ⟨⟨h1, hv⟩, h3⟩
      · rename_i h4 h5
        simp only [Memory.wfFrom, Bool.and_eq_true, bne_iff_ne]
        have hba : b < a := by omega
        exact ⟨⟨h1, h2⟩, ih h3 (by simpa using hba) (by simpa [aboveBound] using hba)⟩

/-- Every write keeps the canonical form. -/
theorem Memory.wf_write {m : Memory} (a : Nat) (v : Byte) (h : m.wf = true) : (m.write a v).wf = true :=
  Memory.wfFrom_write a v h (by simp)

/-- Below the bound of a canonical memory nothing is listed. -/
theorem Memory.read_below {m : Memory} {b a : Nat} (h : Memory.wfFrom (some b) m = true) (ha : a ≤ b) :
    m.read a = unlistedByte := by
  induction m generalizing b with
  | nil => rfl
  | cons e t ih =>
    obtain ⟨c, w⟩ := e
    simp only [Memory.wfFrom, aboveBound, Bool.and_eq_true, decide_eq_true_eq] at h
    simp only [Memory.read]
    rw [if_neg (by omega)]
    exact ih h.2 (by omega)

/-- A byte written is the byte read, and every other byte stands, in a canonical memory. -/
theorem Memory.read_write {m : Memory} (h : m.wf = true) (a c : Nat) (v : Byte) :
    (m.write a v).read c = if c = a then v else m.read c := by
  suffices H : ∀ (lo : Option Nat) (m : Memory), Memory.wfFrom lo m = true →
      (m.write a v).read c = if c = a then v else m.read c from H none m h
  intro lo m
  induction m generalizing lo with
  | nil =>
    intro _
    simp only [Memory.write]
    split
    · simp_all [Memory.read]
    · simp only [Memory.read]
  | cons e t ih =>
    obtain ⟨b, w⟩ := e
    intro h
    have h' := h
    simp only [Memory.wfFrom, Bool.and_eq_true, bne_iff_ne] at h'
    obtain ⟨⟨h1, h2⟩, h3⟩ := h'
    simp only [Memory.write]
    split
    · rename_i hab
      split
      · rename_i hv
        simp only [Memory.read]
        by_cases hc : c = a
        · subst hc
          rw [if_pos rfl, if_neg (by omega), hv]
          exact Memory.read_below h3 (by omega)
        · rw [if_neg hc]
      · simp only [Memory.read]
    · split
      · rename_i hab
        subst hab
        split
        · rename_i hv
          simp only [Memory.read]
          by_cases hc : c = a
          · subst hc
            rw [if_pos rfl, hv]
            exact Memory.read_below h3 (le_refl _)
          · rw [if_neg hc, if_neg hc]
        · simp only [Memory.read]
          by_cases hc : c = a <;> simp [hc]
      · rename_i h4 h5
        simp only [Memory.read]
        by_cases hcb : c = b
        · subst hcb
          rw [if_pos rfl, if_pos rfl, if_neg (Ne.symm h5)]
        · rw [if_neg hcb, if_neg hcb]
          exact ih _ h3

/-- Memory after power-on reset is canonical. -/
theorem State.reset_mem_wf : State.reset.mem.wf = true := rfl

/-- Storing a payload byte does nothing, or writes one byte at the record's next payload address and raises filled
(R8). -/
theorem State.storePayload_cases (s : State) (n : RecId) (b : Byte) :
    s.storePayload n b = s ∨
      ∃ r a, s.record n = some r ∧ r.payloadAddr r.filled = some a ∧
        s.storePayload n b = (s.setMem (s.mem.write a b)).setRecord n (some { r with filled := r.filled + 1 }) := by
  unfold State.storePayload
  split
  · exact .inl rfl
  · rename_i r hr
    split
    · exact .inl rfl
    · rename_i a ha
      exact .inr ⟨r, a, hr, ha, rfl⟩

/-- Storing a payload byte keeps the canonical form. -/
theorem State.storePayload_mem_wf (s : State) (n : RecId) (b : Byte) (h : s.mem.wf = true) :
    (s.storePayload n b).mem.wf = true := by
  rcases s.storePayload_cases n b with e | ⟨r, a, -, -, e⟩ <;> rw [e]
  · exact h
  · exact Memory.wf_write a b h

end Sys2Proof.Machine
end

