-- ==== Sys2Proof/Laws/Store.lean ====
section
/-! SUPPORT. The spec lemmas of the store's shared operations (chapters 1 and 4): the discard path, passing a return on, the
commit, the transmitter's choice, the clearing of a loan, the return of a reservation, the verdict of a POST. -/

namespace Sys2Proof.Machine

open Sys2Proof.Safety

/-! ### Judging DEPTH watches and passing a return on -/

/-- Judging DEPTH watches is within what an accounts event can do (R38, R39). -/
theorem onlyAccounts_judgeDepth (s : State) (falls : List QueueId) : OnlyAccounts s (s.judgeDepth falls) := by
  refine .ofPorts rfl fun k => ?_
  simp only [State.judgeDepth, State.port, vget_map]
  split
  · rename_i h
    split
    · exact .inr ⟨by simp [h], rfl⟩
    · exact .inl rfl
  · exact .inl rfl

/-- Noting a fall changes nothing but the model's own note (R66). -/
theorem onlyAccounts_noteFalls (s before : State) (falls : List QueueId) : OnlyAccounts s (s.noteFalls before falls) :=
  .ofPorts rfl fun _ => .inl rfl

/-- All that passing a return on can do (R19, R20). -/
theorem onlyAccounts_passOn (s before : State) (r : Returned) : OnlyAccounts s (s.passOn before r) := by
  have h := (onlyAccounts_judgeDepth s r.falls).trans (onlyAccounts_noteFalls _ before r.falls)
  unfold State.passOn
  split
  · exact h.trans (onlyAccounts_event _ _ _)
  · exact h

/-! ### The places of a target -/

/-- Releasing a place of a target touches its queue class or the UQ alone (R68). -/
theorem State.releasePlace_rest (s : State) (t : Target) :
    s.releasePlace t = { s with classes := (s.releasePlace t).classes, uq := (s.releasePlace t).uq } := by
  cases t <;> rfl

/-- Reserving a place touches the target's queue class or the UQ alone (R61). -/
theorem State.reservePlace_rest (s : State) (t : Target) :
    s.reservePlace t = { s with classes := (s.reservePlace t).classes, uq := (s.reservePlace t).uq } := by
  cases t <;> rfl

/-- Taking a record out of its queue touches that queue alone (R72). -/
theorem State.unqueue_rest (s : State) (n : RecId) (t : Target) :
    s.unqueue n t = { s with classes := (s.unqueue n t).classes, uq := (s.unqueue n t).uq } := by
  cases t <;> rfl

/-- Appending a record to a queue touches that queue alone (R67). -/
theorem State.enqueue_rest (s : State) (n : RecId) (t : Target) :
    s.enqueue n t = { s with classes := (s.enqueue n t).classes, uq := (s.enqueue n t).uq } := by
  cases t <;> rfl

/-! ### The discard path -/

/-- A record that is not in use is not discarded again. -/
theorem State.discardOne_none {s : State} {n : RecId} (h : s.record n = none) : s.discardOne n = s := by
  simp [State.discardOne, h]

/-- Taking a record out of its place touches slots, classes and the UQ alone (R19, step 1). -/
theorem State.outOfPlace_rest (s : State) (n : RecId) (r : Record) :
    s.outOfPlace n r =
      { s with
        slots := (s.outOfPlace n r).slots, classes := (s.outOfPlace n r).classes, uq := (s.outOfPlace n r).uq } := by
  unfold State.outOfPlace
  split
  · rw [State.releasePlace_rest]; rfl
  · rw [State.unqueue_rest]

/-- What steps 1 to 5 of the discard of a record in use do (R19). -/
theorem State.discardOne_spec {s : State} {n : RecId} {r : Record} (h : s.record n = some r) :
    s.discardOne n =
      { s with
        free := s.free ++ r.cells
        records := vset s.records n none
        usage := vset s.usage r.origin.num (s.used r.origin - r.cells.length)
        slots := (s.outOfPlace n r).slots
        classes := (s.outOfPlace n r).classes
        uq := (s.outOfPlace n r).uq
        ports := s.ports.map (Port.dropLoanOf n)
        links := s.links.map (Link.dropSendingOf n) } := by
  simp only [State.discardOne, h]
  rw [State.outOfPlace_rest]
  rfl

section
variable (s : State) (n : RecId)

theorem State.discardOne_keep :
    (s.discardOne n).mem = s.mem ∧ (s.discardOne n).guarantee = s.guarantee ∧ (s.discardOne n).limit = s.limit ∧
      (s.discardOne n).routes = s.routes ∧ (s.discardOne n).runCount = s.runCount ∧
      (s.discardOne n).runLimit = s.runLimit ∧ (s.discardOne n).mgrSet = s.mgrSet ∧
      (s.discardOne n).mgrMask = s.mgrMask ∧ (s.discardOne n).manager = s.manager ∧
      (s.discardOne n).lowMark = s.lowMark ∧ (s.discardOne n).postTimeout = s.postTimeout ∧
      (s.discardOne n).ties = s.ties ∧ (s.discardOne n).owed = s.owed ∧ (s.discardOne n).ahead = s.ahead ∧
      (s.discardOne n).pending = s.pending := by
  cases h : s.record n with
  | none => simp [State.discardOne_none h]
  | some r => simp [State.discardOne_spec h]

/-- A record is in use after a discard exactly if it was and is another. -/
theorem State.discardOne_record (i : RecId) : (s.discardOne n).record i = if n = i then none else s.record i := by
  cases h : s.record n with
  | none =>
    rw [State.discardOne_none h]
    split
    · rename_i e; rw [← e, h]
    · rfl
  | some r =>
    rw [State.discardOne_spec h]
    simp [State.record]

end

/-- A whole discard is steps 1 to 5 and then an event at the accounts (R19). -/
theorem State.discard_spec (s : State) (n : RecId) : OnlyAccounts (s.discardOne n) (s.discard n) :=
  onlyAccounts_passOn _ _ _

/-! ### Commit, choice, loans, reservations -/

/-- The transmitter's choice: nothing, or the record that service order chooses becomes the sending one at header byte 1,
and then only in ACTIVE, settled, with no record named and no ABM due (R168). -/
theorem State.transmitterChoose_cases (s : State) (x : LinkId) :
    s.transmitterChoose x = s ∨
      ∃ n c k, s.choice (.link x) = some (n, c, k) ∧ (s.link x).state = .active ∧ (s.link x).settle = 0 ∧
        (s.link x).sending = none ∧ (s.link x).abmDue = false ∧
        s.transmitterChoose x =
          ((s.setRun (.link x) k).setRecState n .sending).setLink x
            { s.link x with sending := some { recId := n, progress := .header 1 } } := by
  unfold State.transmitterChoose
  simp only
  split
  · rename_i hc
    split
    · exact .inl rfl
    · rename_i n c k h
      exact .inr ⟨n, c, k, h, hc.1, hc.2.1, hc.2.2.1, hc.2.2.2, rfl⟩
  · exact .inl rfl

/-- Setting a record's state touches that record alone. -/
theorem State.setRecState_spec (s : State) (n : RecId) (st : RecState) :
    s.setRecState n st = s.setRecord n ((s.record n).map fun r => { r with state := st }) := by
  unfold State.setRecState
  cases h : s.record n with
  | none =>
    simp only [Option.map_none]
    have hv : vset s.records n none = s.records := by
      apply vget_ext
      intro i
      rw [vget_vset]
      split
      · rename_i e; rw [← e]; exact h.symm
      · rfl
    simp [State.setRecord, hv]
  | some r => rfl

/-- Clearing a loan without removal: nothing without a loan, else its record is QUEUED and the port holds none (R13). -/
theorem State.clearLoan_cases (s : State) (k : PortId) :
    ((s.port k).loan = none ∧ s.clearLoan k = s) ∨
      ∃ l, (s.port k).loan = some l ∧
        s.clearLoan k = (s.setRecState l.recId .queued).setPort k { s.port k with loan := none, readout := none } := by
  unfold State.clearLoan
  cases h : (s.port k).loan with
  | none => exact .inl ⟨rfl, rfl⟩
  | some l => exact .inr ⟨l, rfl, rfl⟩

/-- After clearing a loan the port holds none. -/
theorem State.clearLoan_loan (s : State) (k : PortId) : ((s.clearLoan k).port k).loan = none := by
  rcases s.clearLoan_cases k with ⟨h, e⟩ | ⟨l, h, e⟩ <;> rw [e]
  · exact h
  · simp

/-- A commit: out of the slot, QUEUED at the tail of its target, its reservation released, then the event of the target
(R12, R67). -/
theorem State.commit_spec {s : State} {n : RecId} {r : Record} (h : s.record n = some r) :
    s.commit n =
      ((((s.setSlot r.origin none).setRecord n (some { r with state := .queued })).releasePlace r.target).enqueue n
        r.target).commitEvent r.target := by
  simp [State.commit, h]

/-- A link in OFF or HOLD does not fault (R157). -/
theorem State.linkFault_inactive {s : State} {x : LinkId} (k : LinkFault)
    (h : (s.link x).state = .off ∨ (s.link x).state = .hold) : s.linkFault x k = s := by
  unfold State.linkFault
  rcases h with h | h <;> simp [h]

/-- A return all empties the reserved list into the free list, oldest first, and withdraws the GRANTs (R33). -/
theorem State.returnAll_spec (s : State) (x : LinkId) :
    (s.returnAll x).free = s.free ++ (s.link x).reserved ∧
      (s.returnAll x).used (.link x) = s.used (.link x) - (s.link x).reserved.length ∧
      ((s.returnAll x).link x).reserved = [] ∧ ((s.returnAll x).link x).pendingGrants = 0 := by
  simp [State.returnAll]

/-- The verdict of a POST that no fall of its class came together with (R100). -/
theorem State.verdict_none {s : State} {k : PortId} {h : PostHeader} (e : s.ahead = none) :
    s.verdict k h = (s.judgePost k h, s) := by
  simp [State.verdict, e]

/-- All that the verdict of a POST can be: the judgement as the state stands, or, where a fall of class `q` came together
with it, FULL of `q` as before the fall; the note of that fall is then gone (R66, log 30). -/
theorem State.verdict_cases (s : State) (k : PortId) (h : PostHeader) :
    s.ahead = none ∧ s.verdict k h = (s.judgePost k h, s) ∨
      ∃ q, s.ahead = some q ∧
        (s.verdict k h = (.full q, { s with ahead := none, ties := s.ties + 1 }) ∨
          s.verdict k h = (s.judgePost k h, { s with ahead := none, ties := s.ties + 1 })) := by
  cases e : s.ahead with
  | none => exact .inl ⟨rfl, State.verdict_none e⟩
  | some q =>
    refine .inr ⟨q, rfl, ?_⟩
    by_cases ht : Config.freeTie s.ties % 2 = 0
    · exact .inl (by simp [State.verdict, e, ht])
    · exact .inr (by simp [State.verdict, e, ht]; rfl)

end Sys2Proof.Machine
end

