-- ==== Sys2Proof/Tests/Slice0.lean ====
section
/-! SUPPORT. Tests. First the checks of WellFormed, each with a term it refuses, and the words of 5.3, 11.8 and 11.9; then
one or two steps of every command on a small state, with what the manual says of them; last, for each statement of
Certificates/Slice0/Obligations.lean that has hypotheses, states and operands that meet them, clause by clause. -/

namespace Sys2Proof.Tests

set_option Elab.async false

open Sys2Proof.Machine Sys2Proof.Safety

/-! ### Small states -/

/-- Port `k` with a transaction open, no in byte completed. -/
def opened (k : PortId) (s : State) : State := s.setPort k ((s.port k).openTx (s.summary k))

/-- Port `k` in request `r`, with `n` in bytes completed and the bytes `bs` kept. -/
def within (k : PortId) (r : Request) (n : Nat) (bs : List Byte) (s : State) : State :=
  s.setPort k { s.port k with selLow := true, tx := .running r, inCount := n, inBytes := bs }

/-- Port `k` changed by `f`. -/
def port (k : PortId) (f : Port → Port) (s : State) : State := s.setPort k (f (s.port k))

/-- Link `x` changed by `f`. -/
def link (x : LinkId) (f : Link → Link) (s : State) : State := s.setLink x (f (s.link x))

/-- Port `k` holds the manager role. -/
def chief (k : PortId) (s : State) : State := s.setManager (some k) 0x00

/-- Port `k` is fenced. -/
def fenced (k : PortId) : State → State := port k fun p => { p with fenced := true }

/-- Link `x` enabled and in state `st`. -/
def linked (x : LinkId) (st : LinkState) : State → State :=
  link x fun l =>
    { l with
      ctrl := { l.ctrl with enable := true }, state := st, silence := st == .active, holdTimer := st == .hold }

/-- A message of 33 bytes in cells 0 and 1, for target `t`. -/
def message (o : Party) (t : Target) (st : RecState) (filled : Nat) : Record :=
  { origin := o, srcAddr := 0xF0, dstAddr := 0xF1, tag := 0x07, cls := .express, hops := 3, length := 33,
    filled := filled, cells := if filled = 0 then [] else [0, 1], target := t, reason := none, state := st,
    resends := 0 }

/-- The EXPRESS class of a destination as a target. -/
def express (d : Party) : Target := .queue { dest := d, cls := .express }

/-- Record `n` in use, in the place its state asks for, with its cells off the free list and charged. -/
def holds (n : RecId) (r : Record) (s : State) : State :=
  let s1 :=
    ((s.setFree (s.free.filter fun c => !r.cells.contains c)).setUsed r.origin r.cells.length).setRecord n (some r)
  if r.state = .assembling then (s1.setSlot r.origin (some n)).reservePlace r.target else s1.enqueue n r.target

/-- Port 0 posting record 5, `filled` of its 33 bytes stored. -/
def posting (filled : Nat) : State :=
  port 0 (fun p => { p with phase := .filling, timer := some 20 })
    (within 0 .post (6 + filled) []
      (holds 5 { message (.host 0) (express (.host 1)) .assembling filled with cells := [0, 1] } State.reset))

/-- Port 1 in a FETCH with record 5 on loan from its EXPRESS inbox, `n` in bytes completed. -/
def reading (n : Nat) : State :=
  port 1 (fun p => { p with readout := some 5, autoRelease := true })
    (within 1 .fetch n []
      ((holds 5 (message (.host 0) (express (.host 1)) .queued 33) State.reset).lend 1 5 (.inbox .express)))

/-- Link 0 ACTIVE and settled, sending record 5 with progress `p`. -/
def sending (p : Progress) : State :=
  link 0 (fun l => { l with sending := some { recId := 5, progress := p } })
    (linked 0 .active (holds 5 (message (.host 0) (express (.link 0)) .sending 33) State.reset))

/-- Link 0 ACTIVE with two reserved cells, the header bytes `h` of a message received. -/
def receiving (h : List Byte) : State :=
  link 0 (fun l => { l with isOpen := true, hdr := h, reserved := [2, 3] })
    (linked 0 .active ((State.reset.setFree (State.reset.free.drop 4)).setUsed (.link 0) 4))

/-- The six header bytes of a message of 33 bytes to 0xF1. -/
def header : List Byte := [0xF1, 0x20, 0x03, 0x07, 0x00, 0x21]

/-- Link 0 receiving record 5 for `t`, `filled` of its 33 bytes stored. -/
def receivingRecord (t : Target) (filled : Nat) : State :=
  (((receiving header).setRecord 5 (some (message (.link 0) t .assembling filled))).setSlot (.link 0)
      (some 5)).reservePlace t

/-- Port `k` at in byte 5 of a POST to `dst` with the control byte and the high byte of the length given. -/
def judgingOn (k : PortId) (dst control hi : Byte) (s : State) : State :=
  port k (fun p => { p with phase := .header }) (within k .post 5 [dst, control, 0x07, hi] s)

/-- The same on port 0. -/
def judging (dst control hi : Byte) (s : State) : State := judgingOn 0 dst control hi s

/-- Port 0, the manager, at in byte 6 of a WRITE ITEM. -/
def writing (id index v0 v1 v2 : Byte) (s : State) : State :=
  chief 0 (within 0 .writeItem 6 [id, index, v0, v1, v2] s)

/-- Whether `c` goes on from `s` to a state with `p`. -/
def gives (c : Instr) (s : State) (p : State → Bool) : Bool := (nextOf (exec c s)).any p

/-- The status or out byte formed on port `k`. -/
def out (s : State) (k : PortId) : Option Byte := (s.port k).outFormed

/-! ### Well-formedness, codes and words -/

theorem test_wellFormed_undefined_code :
    (Instr.undefinedRequestCode 0 0x10 false).wellFormed = false ∧
      (Instr.undefinedRequestCode 0 0x7E false).wellFormed = true := by decide

theorem test_wellFormed_symbol_error :
    (Instr.symbolError 0 0b1111000010#10).wellFormed = false ∧
      (Instr.symbolError 0 0b1111000011#10).wellFormed = true := by decide +kernel

theorem test_wellFormed_fetch :
    (Instr.fetch 0 0x02 false).wellFormed = false ∧ (Instr.fetch 0 0x01 false).wellFormed = true := by decide

theorem test_wellFormed_fetchUq :
    (Instr.fetchUq 0 0x01 false).wellFormed = false ∧ (Instr.fetchUq 0 0x02 false).wellFormed = true := by decide

/-- The table of 5.3. -/
theorem test_request_codes :
    [0x00, 0x10, 0x20, 0x21, 0x30, 0x31, 0x40, 0x50, 0x51, 0x52, 0x60, 0x61, 0x70, 0x71, 0x72, 0x73, 0x7F].map
        decodeRequest =
      [Request.nop, .post, .fetch, .release, .events, .mask, .query, .claim, .resign, .portReset, .readItem,
        .writeItem, .fence, .unfence, .purge, .drain, .restart].map some := by decide

theorem test_undefined_codes :
    ([0x01, 0x11, 0x22, 0x53, 0x62, 0x74, 0x7E, 0x80, 0xFF].map decodeRequest).all Option.isNone = true := by decide

/-- 11.8: the four control symbols, kind, value and parity in send order. -/
theorem test_control_words :
    [0b1111000010#10, 0b1110100100#10, 0b1110000110#10, 0b1101101000#10].map decodeSymbol =
      [some .fill, some .grant, some .eom, some .abm] := by decide +kernel

/-- 11.9: header bytes 0x41 and 0xF0 as symbols. -/
theorem test_data_words :
    [0b0010000011#10, 0b0111100001#10].map decodeSymbol = [some (.data 0x41), some (.data 0xF0)] := by decide +kernel

/-- R148: a parity error, a complement that does not match, and an undefined code with a good complement. -/
theorem test_symbol_errors :
    [0b0010000010#10, 0b1111100011#10, 0b1101001010#10, 0b1111100001#10].map decodeSymbol = [none, none, none, none] :=
  by decide +kernel

theorem test_table_words_spell_nothing : (List.range 8).all (fun w => (decodeTableWord 8 w).isNone) = true := by decide

/-! ### One step of every command -/

/-- 0.8, R1: reset empties the table and keeps the select pin. -/
theorem test_powerOnReset :
    gives .powerOnReset (posting 3) (fun t => t.free == allCells && (t.record 5).isNone && (t.port 0).selLow) =
      true := by decide +kernel

/-- R82: an EXPRESS message and the fence show in the summary byte. -/
theorem test_selectFall :
    gives (.selectFall 1) (fenced 1 (holds 5 (message (.host 0) (express (.host 1)) .queued 33) State.reset))
      (fun t => out t 1 == some 0x48 && (t.port 1).tx == .opened) = true := by decide +kernel

/-- R103: the whole message is committed, with ARRIVED (0x01) at its host. -/
theorem test_selectRise_commits :
    gives (.selectRise 0) (posting 33)
      (fun t => (t.qclass ⟨.host 1, .express⟩).recs == [5] && (t.port 1).hostSet == 0x01 && out t 0 == none) =
      true := by decide +kernel

/-- R10, R103: a short one is discarded, with POST ABORTED (0x04) and its cells at the tail of the free list. -/
theorem test_selectRise_aborts :
    gives (.selectRise 0) (posting 32)
      (fun t => (t.port 0).hostSet == 0x04 && t.free.drop 510 == [0, 1] && (t.qclass ⟨.host 1, .express⟩).occupancy == 0) =
      true := by decide +kernel

/-- R87. -/
theorem test_undefinedRequestCode :
    gives (.undefinedRequestCode 0 0x7E false) (opened 0 (fenced 0 State.reset))
      (fun t => out t 0 == some 0x12 && (t.port 0).hostSet == 0x80 && (t.port 0).tx == .ended) = true := by
  decide +kernel

/-- R81, R93: an early in byte shifts out 0xFF. -/
theorem test_nop :
    gives (.nop 0 true) (opened 0 State.reset)
      (fun t => out t 0 == some 0x00 && (t.port 0).outShifted == some 0xFF && (t.port 0).spoilt == [0]) = true := by
  decide +kernel

/-- R100, R101: 33 bytes take two cells from the front. R28: reserve ones that the claim comes between follow it. -/
theorem test_post_taken :
    gives (.post 0 0x21 false)
      (port 0 (fun p => { p with phase := .header }) (within 0 .post 5 [0xF1, 0x03, 0x07, 0x00] State.reset))
      (fun t => out t 0 == some 0x01 && t.used (.host 0) == 2 && (t.record 0).map (·.cells) == some [0, 1] &&
          (t.port 0).timer == some 20) = true ∧
      gives (.post 0 0x21 false) { judging 0xF1 0x03 0x00 (linked 0 .active State.reset) with owed := [0] }
        (fun t => (t.record 0).map (·.cells) == some [0, 1] && (t.link 0).reserved == [2, 3, 4, 5, 6, 7, 8, 9] &&
            t.owed == []) = true := by decide +kernel

/-- R37, R100: a full class refuses with FULL and a DEPTH watch. -/
theorem test_post_full :
    gives (.post 0 0x21 false)
      (port 0 (fun p => { p with phase := .header })
        (within 0 .post 5 [0xF1, 0x83, 0x07, 0x00]
          (State.reset.setClass ⟨.host 1, .bulk⟩ { recs := [], reserved := 8, depth := 8 })))
      (fun t => out t 0 == some 0x05 && (t.port 0).watch == .depth ⟨.host 1, .bulk⟩) = true := by decide +kernel

/-- R66: a release of a message of the class that is full for the POST waiting next: the POST may come before the fall. -/
theorem test_release_before_post :
    gives (.release 1 false)
      { judging 0xF1 0x03 0x00
          ((opened 1 (reading 2)).setClass ⟨.host 1, .express⟩ { recs := [5], reserved := 0, depth := 1 }) with
        pending := [.post 0 0x21 false] }
      (fun t => t.ahead == some ⟨.host 1, .express⟩ && (t.qclass ⟨.host 1, .express⟩).recs == []) = true := by
  decide +kernel

/-- R8, R102: byte 32 goes to the second cell. -/
theorem test_postPayloadByte :
    gives (.postPayloadByte 0 0xAB false) (posting 32)
      (fun t => t.mem == [(32, 0xAB)] && (t.record 5).map (·.filled) == some 33) = true := by decide +kernel

theorem test_postPayloadByte_beyond :
    gives (.postPayloadByte 0 0xAB false) (posting 33)
      (fun t => t.mem == [] && (t.record 5).map (·.filled) == some 33) = true := by decide +kernel

/-- R89. -/
theorem test_postTimeout :
    gives (.postTimeout 0) (posting 33)
      (fun t => (t.port 0).tx == .ended && (t.port 0).hostSet == 0x04 && (t.record 5).isNone) = true := by
  decide +kernel

/-- R107, R108: EXPRESS alone is chosen and the counter stays. -/
theorem test_fetch :
    gives (.fetch 1 0x01 false)
      (within 1 .fetch 1 [] (holds 5 (message (.host 0) (express (.host 1)) .queued 33) State.reset))
      (fun t => out t 1 == some 0x02 && (t.port 1).loan == some { recId := 5, queue := .inbox .express } &&
          (t.port 1).autoRelease && t.run (.host 1) == 0) = true := by decide +kernel

/-- R107: no role. -/
theorem test_fetchUq : gives (.fetchUq 1 0x02 false) (within 1 .fetch 1 [] State.reset) (fun t => out t 1 == some 0x0A) =
    true := by decide +kernel

/-- R115: the head of the UQ. -/
theorem test_fetchUq_manager :
    gives (.fetchUq 0 0x02 false) (chief 0 (within 0 .fetch 1 [] (holds 5 (message (.link 0) .uq .queued 33) State.reset)))
      (fun t => out t 0 == some 0x02 && (t.record 5).map (·.state) == some .loaned) = true := by decide +kernel

/-- R113. -/
theorem test_release :
    gives (.release 1 false) (opened 1 (reading 2))
      (fun t => out t 1 == some 0x01 && (t.port 1).loan == none && t.used (.host 0) == 0) = true := by decide +kernel

/-- R123. -/
theorem test_events :
    gives (.events 0 false) (opened 0 (chief 0 ((State.reset.raiseHost 0 .room).raiseMgr (.linkUp 1))))
      (fun t => out t 0 == some 0x02 && (t.port 0).replyRest == [0x02] && (t.port 0).hostSet == 0x02) = true := by
  decide +kernel

/-- R126. -/
theorem test_mask :
    gives (.mask 0 0x81 false) (within 0 .mask 1 [] State.reset) (fun t => (t.port 0).hostMask == 0x81) = true := by
  decide +kernel

theorem test_managerMaskWrite :
    gives (.managerMaskWrite 0 0x81 false) (chief 0 (within 0 .mask 2 [] State.reset)) (fun t => t.mgrMask == 0x81) =
        true ∧
      gives (.managerMaskWrite 0 0x81 false) (within 0 .mask 2 [] State.reset) (fun t => t.mgrMask == 0x00) = true := by
  decide +kernel

/-- R95: free cell count 512, headroom 256. -/
theorem test_query :
    gives (.query 0 false) (opened 0 State.reset)
      (fun t => out t 0 == some 0x01 && (t.port 0).replyRest == [0, 0, 0, 0, 0, 0xFF, 0xFF, 0, 0, 0x02, 0x00]) =
      true := by decide +kernel

/-- R131. -/
theorem test_claim :
    gives (.claim 0 false) (opened 0 State.reset) (fun t => out t 0 == some 0x01 && t.manager == some 0) = true ∧
      gives (.claim 0 false) (opened 0 (chief 2 State.reset)) (fun t => out t 0 == some 0x0B && t.manager == some 2) =
        true := by decide +kernel

/-- R133. -/
theorem test_resign :
    gives (.resign 2 false) (opened 2 ((chief 2 State.reset).raiseMgr .linkDiscard))
      (fun t => t.manager == none && t.mgrSet == 0x40) = true := by decide +kernel

/-- R94. -/
theorem test_portReset :
    gives (.portReset 1 false) (opened 1 (reading 2))
      (fun t => (t.record 5).map (·.state) == some .queued && (t.qclass ⟨.host 1, .express⟩).recs == [5] &&
          (t.port 1).loan == none) = true := by decide +kernel

/-- R134, R135: LIMIT of source 5 is 256; class 12 of DEPTH is out of range. -/
theorem test_readItem :
    gives (.readItem 3 0x05 false) (within 3 .readItem 2 [0x04] State.reset)
        (fun t => out t 3 == some 0x01 && (t.port 3).replyRest == [0, 0, 0x01, 0x00]) = true ∧
      gives (.readItem 3 0x0C false) (within 3 .readItem 2 [0x05] State.reset) (fun t => out t 3 == some 0x0D) =
        true := by decide +kernel

/-- R136: a read-only item; R138: LINKCTRL without a change of enable. -/
theorem test_writeItem :
    gives (.writeItem 0 0x00 false) (writing 0x12 0 0 0 0 State.reset) (fun t => out t 0 == some 0x10) = true ∧
      gives (.writeItem 0 0x07 false) (writing 0x07 1 0x01 4 16 State.reset)
        (fun t => out t 0 == some 0x01 &&
            (t.link 1).ctrl == { enable := false, autoRestart := true, rate := 4, window := 16, resendLimit := 7 }) =
        true := by decide +kernel

/-- R44. -/
theorem test_routeWrite :
    gives (.routeWrite 0 0x01 false) (writing 0x01 31 1 0x20 4 State.reset)
        (fun t => out t 0 == some 0x01 &&
            vget t.routes 31 == { valid := true, address := 0x20, primary := .link 0, alternate := some (.host 1) }) =
        true ∧
      gives (.routeWrite 0 0xFF false) (writing 0x01 31 1 0xF3 4 State.reset) (fun t => out t 0 == some 0x0E) =
        true := by decide +kernel

/-- R96. -/
theorem test_portaddrWrite :
    gives (.portaddrWrite 0 0x33 false) (writing 0x02 3 0 0 0 State.reset) (fun t => (t.port 3).portAddr == 0x33) =
      true := by decide +kernel

/-- R35: 256 is within LIMIT, and the sum 416 within 512; 257 is above LIMIT. -/
theorem test_guaranteeWrite :
    gives (.guaranteeWrite 0 0x00 false) (writing 0x03 5 0 0 1 State.reset)
        (fun t => out t 0 == some 0x01 && t.sharedCapacity == 96) = true ∧
      gives (.guaranteeWrite 0 0x01 false) (writing 0x03 5 0 0 1 State.reset) (fun t => out t 0 == some 0x0D) = true := by
  decide +kernel

/-- R36: not below the guarantee of 32. -/
theorem test_limitWrite :
    gives (.limitWrite 0 0x20 false) (writing 0x04 0 0 0 0 State.reset) (fun t => t.lim (.host 0) == 32) = true ∧
      gives (.limitWrite 0 0x1F false) (writing 0x04 0 0 0 0 State.reset) (fun t => out t 0 == some 0x0D) = true := by
  decide +kernel

/-- R62, R63: the sum 104 is within the budget; not below the occupancy. -/
theorem test_depthWrite :
    gives (.depthWrite 0 16 false) (writing 0x05 11 0 0 0 State.reset)
        (fun t => (t.qclass ⟨.link 1, .bulk⟩).depth == 16) = true ∧
      gives (.depthWrite 0 1 false)
        (writing 0x05 11 0 0 0 (State.reset.setClass ⟨.link 1, .bulk⟩ { recs := [], reserved := 2, depth := 8 }))
        (fun t => out t 0 == some 0x0F) = true := by decide +kernel

/-- R70. -/
theorem test_runlimitWrite :
    gives (.runlimitWrite 0 15 false) (writing 0x06 4 0 0 0 State.reset) (fun t => vget t.runLimit 4 == 15) = true ∧
      gives (.runlimitWrite 0 16 false) (writing 0x06 4 0 0 0 State.reset) (fun t => out t 0 == some 0x0D) = true := by
  decide +kernel

/-- R139. -/
theorem test_posttimeoutWrite :
    gives (.posttimeoutWrite 0 0 false) (writing 0x08 0 0 0 0 State.reset) (fun t => t.postTimeout == 0) = true := by
  decide +kernel

theorem test_lowmarkWrite :
    gives (.lowmarkWrite 0 0xFF false) (writing 0x09 0 0 0 1 State.reset) (fun t => t.lowMark == 511) = true ∧
      gives (.lowmarkWrite 0 0x00 false) (writing 0x09 0 0 0 2 State.reset) (fun t => out t 0 == some 0x0D) = true := by
  decide +kernel

/-- R152, R160. -/
theorem test_linkEnable :
    gives (.linkEnable 0 3 false) (writing 0x07 1 0x10 4 8 State.reset)
      (fun t => (t.link 1).state == .start && (t.link 1).opRate == 4) = true := by decide +kernel

/-- R160: an ABM is due for the message cut short, and LINK A DOWN (0x04) is raised. -/
theorem test_linkDisable :
    gives (.linkDisable 0 3 false) (writing 0x07 0 0x00 0 8 (sending (.payload 0)))
      (fun t => (t.link 0).abmDue && (t.link 0).state == .off && t.mgrSet == 0x04 &&
          (t.record 5).map (·.state) == some .queued) = true := by decide +kernel

/-- R142: FENCE CHANGED (0x10), and the loan cleared without removal. -/
theorem test_fence :
    gives (.fence 0 1 false) (chief 0 (within 0 .fence 1 [] (reading 2)))
        (fun t => (t.port 1).fenced && (t.port 1).hostSet == 0x10 && (t.port 1).tx == .ended &&
            (t.record 5).map (·.state) == some .queued) = true ∧
      gives (.fence 0 0 false) (chief 0 (within 0 .fence 1 [] State.reset)) (fun t => out t 0 == some 0x11) = true := by
  decide +kernel

/-- R143. -/
theorem test_unfence :
    gives (.unfence 0 1 false) (chief 0 (within 0 .unfence 1 [] (fenced 1 State.reset)))
      (fun t => (t.port 1).fenced == false && (t.port 1).hostSet == 0x10) = true := by decide +kernel

/-- R144: LOAN LOST (0x08) and PURGED (0x20). -/
theorem test_purge :
    gives (.purge 0 1 false) (chief 0 (within 0 .purge 1 [] (reading 2)))
      (fun t => (t.port 1).hostSet == 0x28 && (t.qclass ⟨.host 1, .express⟩).recs == [] && t.free.drop 510 == [0, 1]) =
      true := by decide +kernel

/-- R145: the record goes, its ABM is due; an EOM that has begun is finished without one. -/
theorem test_drain :
    gives (.drain 1 0 false) (chief 1 (within 1 .drain 1 [] (sending (.header 1))))
        (fun t => (t.link 0).abmDue && (t.link 0).sending == none && (t.record 5).isNone) = true ∧
      gives (.drain 1 0 false) (chief 1 (within 1 .drain 1 [] (sending .eomBegun))) (fun t => (t.link 0).abmDue == false) =
        true := by decide +kernel

/-- R146: RESTARTED alone (0x40), and an enabled link in HOLD. -/
theorem test_restart :
    gives (.restart 0 false) (chief 0 (opened 0 (sending (.payload 3))))
      (fun t => (t.port 3).hostSet == 0x40 && (t.link 0).state == .hold && (t.link 0).holdExit == .start &&
          t.free == allCells && t.manager == some 0) = true := by decide +kernel

/-- R153: the eighth FILL after one was seen; LINK A UP (0x01), and the window of 8 reserved. -/
theorem test_sendFill :
    gives (.sendFill 0) (link 0 (fun l => { l with fillsSent := 7, fillSeen := true }) (linked 0 .start State.reset))
      (fun t => (t.link 0).state == .active && (t.link 0).settle == 8 && t.mgrSet == 0x01 &&
          (t.link 0).reserved == [0, 1, 2, 3, 4, 5, 6, 7] && (t.link 0).pendingGrants == 8) = true := by decide +kernel

/-- R166. -/
theorem test_sendGrant :
    gives (.sendGrant 0) (link 0 (fun l => { l with pendingGrants := 2 }) (sending (.header 2)))
      (fun t => (t.link 0).pendingGrants == 1 && (t.link 0).lastSymbol == some .grant &&
          (t.link 0).sending == some { recId := 5, progress := .header 2 }) = true := by decide +kernel

/-- R165: the control byte goes out with hop limit 2. -/
theorem test_sendHeaderByte :
    gives (.sendHeaderByte 0) (sending (.header 3)) (fun t => (t.link 0).lastSymbol == some (.data 0x02)) = true := by
  decide +kernel

/-- R167: a byte that opens a cell takes a credit, or waits with FILL. -/
theorem test_sendPayloadByte :
    gives (.sendPayloadByte 0) (link 0 (fun l => { l with credit := 1 }) (sending (.payload 32)))
        (fun t => (t.link 0).credit == 0 && (t.link 0).sending == some { recId := 5, progress := .eom }) = true ∧
      gives (.sendPayloadByte 0) (sending (.payload 32))
        (fun t => (t.link 0).lastSymbol == some .fill &&
            (t.link 0).sending == some { recId := 5, progress := .payload 32 }) = true := by decide +kernel

/-- R169: the record is gone at the completion of its EOM. -/
theorem test_eomSent :
    gives (.eomSent 0 .completes) (sending .eom)
        (fun t => (t.record 5).isNone && (t.link 0).sending == none && t.free.drop 502 == [0, 1]) = true ∧
      gives (.eomSent 0 .begins) (sending .eom) (fun t => (t.record 5).isSome) = true := by decide +kernel

/-- R171. -/
theorem test_sendAbm :
    gives (.sendAbm 0) (link 0 (fun l => { l with abmDue := true }) State.reset)
      (fun t => (t.link 0).abmDue == false && (t.link 0).lastSymbol == some .abm) = true := by decide +kernel

/-- R151, R153. -/
theorem test_receiveFill :
    gives (.receiveFill 1) (link 1 (fun l => { l with fillsSent := 7 }) (linked 1 .start State.reset))
      (fun t => (t.link 1).fillSeen && (t.link 1).state == .start) = true := by decide +kernel

/-- R155: the seventeenth credit is a CREDIT fault. -/
theorem test_receiveGrant :
    gives (.receiveGrant 1) (link 1 (fun l => { l with credit := 15 }) (linked 1 .active State.reset))
        (fun t => (t.link 1).credit == 16) = true ∧
      gives (.receiveGrant 1) (link 1 (fun l => { l with credit := 16 }) (linked 1 .active State.reset))
        (fun t => (t.link 1).lastFault == .credit && (t.link 1).state == .hold && t.mgrSet == 0x08) = true := by
  decide +kernel

/-- R173. -/
theorem test_receiveHeaderByte :
    gives (.receiveHeaderByte 1 0xF1) (linked 1 .active State.reset)
      (fun t => (t.link 1).isOpen && (t.link 1).hdr == [0xF1]) = true := by decide +kernel

/-- R174: a record for the EXPRESS class of H1; a length of 0 is a FRAME fault. -/
theorem test_headerStep :
    gives (.headerStep 0 0x21) (receiving (header.take 5))
        (fun t => t.slot (.link 0) == some 0 && (t.qclass ⟨.host 1, .express⟩).reserved == 1 &&
            (t.record 0).map (·.length) == some 33) = true ∧
      gives (.headerStep 0 0x00) (receiving (header.take 5)) (fun t => (t.link 0).lastFault == .frame) = true := by
  decide +kernel

/-- R175: the first byte takes the oldest reserved cell, and the link reserves cells 4 to 10 up to its window. -/
theorem test_receivePayloadByte :
    gives (.receivePayloadByte 0 0xAB) (receivingRecord (express (.host 1)) 0)
      (fun t => t.mem == [(64, 0xAB)] && (t.record 5).map (·.cells) == some [2] &&
          (t.link 0).reserved == [3, 4, 5, 6, 7, 8, 9, 10]) = true := by decide +kernel

/-- R176, 11.3: a whole message arrives; in the UQ it is UNDELIVERABLE (0x10), and with the target DROP UNDELIVERABLE
DROPPED (0x20); a short one is LINK DISCARD (0x40). -/
theorem test_receiveEom :
    gives (.receiveEom 0) (receivingRecord (express (.host 1)) 33)
        (fun t => (t.qclass ⟨.host 1, .express⟩).recs == [5] && (t.port 1).hostSet == 0x01) = true ∧
      gives (.receiveEom 0) (receivingRecord .uq 33) (fun t => t.uq.recs == [5] && t.mgrSet == 0x10) = true ∧
      gives (.receiveEom 0) (receivingRecord .drop 33) (fun t => (t.record 5).isNone && t.mgrSet == 0x20) = true ∧
      gives (.receiveEom 0) (receivingRecord (express (.host 1)) 0)
        (fun t => t.mgrSet == 0x40 && (t.record 5).isNone) = true := by decide +kernel

/-- R177. -/
theorem test_receiveAbm :
    gives (.receiveAbm 0) (receiving (header.take 2)) (fun t => t.mgrSet == 0x40 && (t.link 0).isOpen == false) = true :=
  by decide +kernel

/-- R16, R148, R157: the sending record goes back with its resends raised. -/
theorem test_symbolError :
    gives (.symbolError 0 0) (sending (.payload 3))
      (fun t => (t.link 0).lastFault == .symbol && (t.record 5).map (·.resends) == some 1 &&
          (t.qclass ⟨.link 0, .express⟩).recs == [5]) = true := by decide +kernel

/-- R153: an entry to ACTIVE, a command that comes between, and then a fault: the cells of the entry are reserved, which takes
the free cell count below the low mark, and returned to the tail of the free list. -/
theorem test_entry_then_fault :
    gives (.symbolError 0 0) { (linked 0 .active State.reset).setLowMark 505 with owed := [0] }
      (fun t => t.mgrSet == 0x84 && t.free.drop 504 == [0, 1, 2, 3, 4, 5, 6, 7] && t.used (.link 0) == 0 &&
          (t.link 0).state == .hold && t.owed == []) = true := by decide +kernel

/-- R153, R135: with a sample, a symbol or nothing waiting, the entry to ACTIVE is one event, its reserve ones all made; the
LINKSTATE item then reads ACTIVE with r = 8, never with r = 0. -/
theorem test_entry_then_read :
    ∀ cs ∈ [[], [.readItem 0 0 false], [.inByteCompletion 0 0 false], [.query 1 false], [.sendGrant 0]],
      gives (.receiveFill 0)
        { within 0 .readItem 2 [0x11] (opened 1 (link 0 (fun l => { l with fillsSent := 8 }) (linked 0 .start State.reset))) with
          pending := cs }
        (fun t => t.itemValue 0x11 0 == some [LinkState.active.code, 0, 0, 8] && t.owed == []) = true := by decide +kernel

/-- R28: which commands come between, each with a state in which it does and one in which it does not: a claim, discards at the
rise of select, at an EOM sent and at one received, a take one, faults, and a write that lets the other link reserve. -/
theorem test_comesBetween :
    (∀ p ∈
        [(judging 0xF1 0x03 0x00 State.reset, Instr.post 0 0x21 false),
          (judging 0xF1 0x03 0x00 State.reset, .inByteCompletion 0 0x21 false), (posting 32, .selectRise 0),
          (sending .eom, .eomSent 0 .completes), (receivingRecord (express (.host 1)) 32, .receiveEom 0),
          (receivingRecord (express (.host 1)) 32, .receivePayloadByte 0 0xAA), (receiving (header.take 2), .receiveEom 0),
          (receiving [], .silence 0), (writing 0x07 0 0x10 0 9 (linked 0 .active State.reset), .writeItem 0 4 false)],
        State.comesBetween { p.1 with pending := [p.2, .nop 1 false] } = true) ∧
      ∀ p ∈
        [(within 0 .post 4 [] State.reset, Instr.post 0 0x21 false), (posting 33, .selectRise 0),
          (posting 32, .inByteCompletion 0 0 false), (sending .eom, .eomSent 0 .begins),
          (receivingRecord (express (.host 1)) 33, .receiveEom 0),
          (receivingRecord (express (.host 1)) 31, .receivePayloadByte 0 0xAA), (linked 0 .hold State.reset, .receiveEom 0),
          (linked 0 .start State.reset, .silence 0), (writing 0x07 0 0x10 0 9 State.reset, .writeItem 0 4 false),
          (within 0 .readItem 2 [0x11] State.reset, .readItem 0 0 false)],
        State.comesBetween { p.1 with pending := [p.2, .post 1 0x21 false] } = false := by decide +kernel

/-- R156, R33: the reserved cells go back to the tail of the free list. -/
theorem test_silence :
    gives (.silence 0) (receiving (header.take 2))
      (fun t => (t.link 0).lastFault == .silence && (t.link 0).reserved == [] && t.free.drop 508 == [2, 3]) = true := by
  decide +kernel

/-- R154, R168: the first choice. -/
theorem test_settleEnd :
    gives (.settleEnd 0)
      (link 0 (fun l => { l with settle := 1 })
        (linked 0 .active (holds 5 (message (.host 0) (express (.link 0)) .queued 33) State.reset)))
      (fun t => (t.link 0).sending == some { recId := 5, progress := .header 1 } && (t.link 0).settle == 0) = true := by
  decide +kernel

/-- R158. -/
theorem test_holdEnd :
    gives (.holdEnd 0) (linked 0 .hold State.reset) (fun t => (t.link 0).state == .off) = true ∧
      gives (.holdEnd 0) (link 0 (fun l => { l with holdExit := .start }) (linked 0 .hold State.reset))
        (fun t => (t.link 0).state == .start) = true := by decide +kernel

/-- R110: the in byte that counts as 10 forms out byte 11, payload byte 1. -/
theorem test_inByteCompletion :
    gives (.inByteCompletion 1 0x00 false) ((reading 10).setMem [(1, 0x5A)]) (fun t => out t 1 == some 0x5A) = true := by
  decide +kernel

/-- Log 6: the command at the front of the queue is the next step. -/
theorem test_step :
    (nextOf (step { State.reset with pending := [.selectFall 2, .nop 2 false] })).any
      (fun t => t.pending == [.nop 2 false] && out t 2 == some 0x00) = true := by decide +kernel

/-! ### The hypotheses of the statements are met

Each theorem names its statement and meets its hypotheses on concrete states, one conjunct a clause. -/

theorem witness_StepRunsFront :
    { State.reset with pending := [Instr.selectFall 0, .silence 1] }.pending = .selectFall 0 :: [.silence 1] ∧
      State.reset.pending = [] := by decide +kernel

theorem witness_SelectFallOpens : (State.reset.port 3).selLow = false := by decide +kernel

/-- A port in OPEN, and a POST in REFUSED. -/
theorem witness_SelectRiseCloses :
    ((opened 0 State.reset).port 0).selLow = true ∧ ((opened 0 State.reset).port 0).tx = .opened ∧
      let s := port 0 (fun p => { p with phase := .refused }) (within 0 .post 6 [] State.reset)
      (s.port 0).selLow = true ∧ ¬((s.port 0).tx = .running .post ∧ (s.port 0).phase = .filling) ∧
        (s.port 0).tx ≠ .running .fetch ∧ (s.port 0).tx ≠ .running .events := by decide +kernel

/-- The second clause: a POST in FILLING, filled to the length of 33 and one byte short of it. -/
theorem witness_SelectRiseCloses_filling :
    (∀ f ∈ [32, 33],
        ((posting f).port 0).selLow = true ∧ ((posting f).port 0).tx = .running .post ∧
          ((posting f).port 0).phase = .filling ∧ (posting f).slot (.host 0) = some 5 ∧
          ((posting f).record 5).map (·.filled) = some f) ∧
      ((posting 33).record 5).map (·.length) = some 33 := by decide +kernel

/-- A record assembling for a host inbox, for a link class and for the UQ. -/
theorem witness_CommitEffect :
    (∀ t ∈ [express (.host 1), express (.link 1), .uq],
      ((holds 5 (message (.link 0) t .assembling 33) State.reset).record 5).map (·.target) = some t ∧
        1 ≤ reservedFor (holds 5 (message (.link 0) t .assembling 33) State.reset) t) := by decide +kernel

/-- A record ASSEMBLING, QUEUED and LOANED; and one with no cell yet. -/
theorem witness_DiscardEffect :
    ((posting 3).record 5).map (·.state) = some .assembling ∧
      ((sending .eom).record 5).map (·.state) = some .sending ∧
      ((reading 2).record 5).map (·.state) = some .loaned ∧
      ((receivingRecord .uq 0).record 5).map (·.cells) = some [] := by decide +kernel

/-- In bytes up to 43 completed, so that out byte 42 = 9 + 33 was shifted out; and one fewer. A new choice has replaced
nothing; the loan is gone; another record is on loan. -/
theorem witness_SelectRiseAutoRelease :
    (∀ n ∈ [42, 43],
      let p := (reading n).port 1
      p.selLow = true ∧ p.tx = .running .fetch ∧ p.loan = some { recId := 5, queue := .inbox .express } ∧
        p.readout = some 5 ∧ ((reading n).record 5).isSome = true ∧ p.autoRelease = true ∧ p.fullReadout 33 = (n == 43)) ∧
      (∀ f ∈
          [fun p : Port => { p with readout := none }, fun p : Port => { p with loan := none },
            fun p : Port => { p with readout := some 6 }],
        let p := (port 1 f (reading 43)).port 1
        p.selLow = true ∧ p.tx = .running .fetch ∧
          (p.readout = none ∨ p.loan = none ∨ p.loan.map (·.recId) = some 5 ∧ p.readout = some 6)) := by decide +kernel

/-- The manager's EVENTS with ROOM and LINK B UP in the snapshot, after in byte 2 and before it. -/
theorem witness_SelectRiseClearsEvents :
    ∀ n ∈ [2, 3],
      let s :=
        port 0 (fun p => { p with snapshot := some { host := 0x02, hostLate := 0, mgr := some (0x02, 0) } })
          (chief 0 (within 0 .events n [] ((State.reset.raiseHost 0 .room).raiseMgr (.linkUp 1))))
      (s.port 0).selLow = true ∧ (s.port 0).tx = .running .events ∧ (s.port 0).snapshot.isSome = true ∧
        ((s.port 0).fullOut 1 && (s.port 0).fullOut 2) = (n == 3) := by decide +kernel

/-- Codes on either side of the table's, on an open port. -/
theorem witness_UndefinedCodeAndNop :
    ((opened 2 (fenced 2 State.reset)).port 2).tx = .opened ∧
      (∀ code ∈ [(0x01 : Byte), 0x22, 0x53, 0x74, 0x7E, 0x80, 0xFF],
        code ∉
          [0x00, 0x10, 0x20, 0x21, 0x30, 0x31, 0x40, 0x50, 0x51, 0x52, 0x60, 0x61, 0x70, 0x71, 0x72, 0x73, 0x7F]) ∧
      ((within 2 .nop 1 [] State.reset).port 2).tx = .running .nop ∧
      ((within 2 .nop 1 [] State.reset).port 2).replyRest = [] := by decide +kernel

/-- In HEADER, in FILLING, and with the timer stopped. -/
theorem witness_PostTimeoutEnds :
    (let s := port 0 (fun p => { p with phase := .header, timer := some 20 }) (within 0 .post 1 [] State.reset);
      (s.port 0).timer ≠ none ∧ (s.port 0).phase ≠ .filling) ∧
      ((posting 0).port 0).timer ≠ none ∧ ((posting 0).port 0).phase = .filling ∧
      (posting 0).slot (.host 0) = some 5 ∧ (State.reset.port 0).timer = none := by decide +kernel

theorem witness_QueryReplies :
    ((opened 0 State.reset).port 0).tx = .opened ∧
      (∀ rest ∈ [[0x00], [0x02, 0x00]],
        let s := port 0 (fun p => { p with replyRest := rest }) (within 0 .query 1 [] State.reset)
        (s.port 0).tx = .running .query ∧ (s.port 0).replyRest = rest) ∧
      ((within 0 .query 13 [] State.reset).port 0).replyRest = [] := by decide +kernel

/-- The manager with a loan from the UQ, and a port with neither. -/
theorem witness_PortResetClears :
    ((opened 0 (chief 0 ((holds 5 (message (.link 0) .uq .queued 33) State.reset).lend 0 5 .uq))).port 0).tx = .opened ∧
      ((opened 3 State.reset).port 3).tx = .opened := by decide +kernel

/-- IDLE; ENDED; a request that starts; POST; header bytes 1 and 4; the kept bytes of the item requests; a byte after the
last taken one; and a byte of a refused POST. -/
theorem witness_InByteTaken :
    (State.reset.port 0).tx = .idle ∧
      ((port 0 Port.endTx (opened 0 State.reset)).port 0).tx = .ended ∧
      ((opened 0 State.reset).port 0).tx = .opened ∧
      (∀ c ∈
        [((0x20 : Byte), Request.fetch), (0x31, .mask), (0x60, .readItem), (0x61, .writeItem), (0x70, .fence),
          (0x71, .unfence), (0x72, .purge), (0x73, .drain)],
        decodeRequest c.1 = some c.2) ∧
      (∀ n ∈ [1, 4],
        let s := port 0 (fun p => { p with phase := .header }) (within 0 .post n [] State.reset)
        (s.port 0).phase = .header ∧ (s.port 0).inCount < 5 ∧ (s.port 0).replyRest = []) ∧
      ((within 0 .readItem 1 [] State.reset).port 0).inCount = 1 ∧
      ((within 0 .writeItem 5 [1, 2, 3, 4] State.reset).port 0).inCount = 5 ∧
      lastTaken .mask < ((within 0 .mask 3 [] State.reset).port 0).inCount ∧
      ((port 0 (fun p => { p with phase := .refused }) (within 0 .post 6 [] State.reset)).port 0).phase = .refused := by
  decide +kernel

theorem witness_InByteRoutes :
    commandOf 0 0x21 false ((opened 0 State.reset).byteStep 0 0x21) = some (.release 0 false) ∧
      commandOf 0 0x03 false ((within 0 .fetch 1 [] State.reset).byteStep 0 0x03) = some (.fetchUq 0 0x03 false) ∧
      commandOf 0 0x03 true ((writing 0x07 0 0x10 0 8 State.reset).byteStep 0 0x03) = some (.linkEnable 0 0x03 true) := by
  decide +kernel

/-- A POST that no fall came together with, and one that a fall did. R100's checks one by one: a fenced port; lengths 0
and 1025; lengths 1 and 1024; an address with no entry; a link output at hop limit 0; a class at its limit; a claim past
the limit of the account; and a POST that passes all. -/
theorem witness_PostJudgement :
    (let s := judging 0xF1 0 4 State.reset;
      (s.port 0).tx = .running .post ∧ (s.port 0).phase = .header ∧ (s.port 0).inCount = 5 ∧
        (s.port 0).inBytes = [0xF1, 0, 7, 4] ∧ s.ahead = none ∧
          { s with ahead := some ⟨.host 1, .express⟩ }.ahead = some ⟨.host 1, .express⟩) ∧
      ((judging 0xF1 0 4 (fenced 0 State.reset)).port 0).fenced = true ∧
      ((0x04 : Byte).toNat * 256 + (0x01 : Byte).toNat = 1025 ∧ (0x04 : Byte).toNat * 256 + (0x00 : Byte).toNat = 1024 ∧
        (0x00 : Byte).toNat * 256 + (0x01 : Byte).toNat = 1) ∧
      State.reset.lookup 0x20 3 = .noRoute ∧
      (State.reset.setRoute 4 { valid := true, address := 0x20, primary := .link 0, alternate := none }).lookup 0x20 0 =
        .hops ∧
      State.reset.lookup 0xF1 0 = .output (.host 1) ∧
      (let s := State.reset.setClass ⟨.host 1, .express⟩ { recs := [], reserved := 8, depth := 8 };
        ¬(s.qclass ⟨.host 1, .express⟩).occupancy < (s.qclass ⟨.host 1, .express⟩).depth) ∧
      (State.reset.setUsed (.host 0) 225).grants (.host 0) 32 = false ∧
      (State.reset.setUsed (.host 0) 224).grants (.host 0) 32 = true ∧
      (State.reset.qclass ⟨.host 1, .express⟩).occupancy < (State.reset.qclass ⟨.host 1, .express⟩).depth ∧
      State.reset.record 127 = none := by decide +kernel

/-- Lengths 1 (one cell) and 1024 (32 cells), the second with a low mark that its cells pass, each with record 0 free; and
record 5 the lowest free. -/
theorem witness_PostTaken :
    (let s := judging 0xF1 0 0 State.reset;
      (s.port 0).tx = .running .post ∧ (s.port 0).phase = .header ∧ (s.port 0).inCount = 5 ∧ (s.port 0).fenced = false ∧
        s.lookup 0xF1 ((0x00 : Byte).extractLsb' 0 4) = .output (.host 1) ∧
        (s.qclass ⟨.host 1, .express⟩).occupancy < (s.qclass ⟨.host 1, .express⟩).depth ∧
        s.grants (.host 0) ((1 + 31) / 32) = true ∧ s.record 0 = none ∧ (∀ i : RecId, i < 0 → s.record i ≠ none) ∧
        s.lowMark = 0 ∧ s.ahead = none) ∧
      (let s := [0, 1, 2, 3, 4].foldl (fun s n => s.setRecord n (some (message (.host 1) .uq .queued 33))) State.reset;
        s.record 5 = none ∧ ∀ i : RecId, i < 5 → s.record i ≠ none) ∧
      let s := (judging 0xF1 0x80 4 State.reset).setLowMark 481
      (0x80 : Byte).getLsbD 7 = true ∧ s.grants (.host 0) ((1024 + 31) / 32) = true ∧ s.record 0 = none ∧
        (s.qclass ⟨.host 1, .bulk⟩).occupancy < (s.qclass ⟨.host 1, .bulk⟩).depth ∧
        s.lowMark ≤ s.free.length ∧ s.free.length - 32 < s.lowMark ∧ s.ahead = none := by decide +kernel

/-- Bytes 0, 31 and 32 of 33, and a byte beyond the length. -/
theorem witness_PostPayloadByteStored :
    (∀ f ∈ [0, 31, 32, 33],
      let s := posting f
      (s.port 0).tx = .running .post ∧ (s.port 0).phase = .filling ∧ s.slot (.host 0) = some 5 ∧
        (s.record 5).map (fun r => (r.filled, r.length, r.cells)) = some (f, 33, [0, 1]) ∧ s.mem.wf = true) := by
  decide +kernel

theorem witness_RoutesUnique : RoutesUnique State.reset := by
  unfold RoutesUnique
  decide +kernel

/-- No entry; a host entry; a link entry that is ACTIVE, and one that is not, with and without an alternate. -/
theorem witness_LookupOutcome :
    (∀ i, (vget State.reset.routes i).valid = true → (vget State.reset.routes i).address ≠ 0x20) ∧
      (vget State.reset.routes 3).valid = true ∧
      (∀ alt ∈ [none, some (Party.host 2)],
        let e : RouteEntry := { valid := true, address := 0x20, primary := .link 0, alternate := alt }
        let s := State.reset.setRoute 31 e
        vget s.routes 31 = e ∧ (s.link 0).state ≠ .active ∧ ((linked 0 .active s).link 0).state = .active) := by
  decide +kernel

/-- H1 with record 5 in EXPRESS, with record 6 in BULK, and with both at the run counter 3 and 4 of a limit of 4. -/
theorem witness_ServiceOrder :
    let e := holds 5 (message (.host 0) (express (.host 1)) .queued 33) State.reset
    let eb := e.enqueue 6 (.queue ⟨.host 1, .bulk⟩)
    (e.qclass ⟨.host 1, .express⟩).recs = [5] ∧ (e.qclass ⟨.host 1, .bulk⟩).recs = [] ∧
      (eb.qclass ⟨.host 1, .express⟩).recs = [5] ∧ (eb.qclass ⟨.host 1, .bulk⟩).recs = [6] ∧
      (eb.setRun (.host 1) 3).run (.host 1) < vget eb.runLimit 1 ∧
      vget eb.runLimit 1 ≤ (eb.setRun (.host 1) 4).run (.host 1) ∧
      (State.reset.qclass ⟨.host 1, .express⟩).recs = [] := by decide +kernel

/-- A fenced port; a loan held; the UQ flag with the role and without, the UQ empty and not; the inbox empty and not. -/
theorem witness_FetchAnswers :
    (let s := within 0 .fetch 1 [] State.reset;
      (s.port 0).tx = .running .fetch ∧ (s.port 0).inCount = 1 ∧ (s.port 0).fenced = false ∧ (s.port 0).loan = none ∧
        s.manager ≠ some 0 ∧ s.choice (.host 0) = none ∧ (chief 0 s).manager = some 0 ∧ (chief 0 s).uq.recs = []) ∧
      ((fenced 0 State.reset).port 0).fenced = true ∧
      ((reading 1).port 1).loan = some { recId := 5, queue := .inbox .express } ∧
      (let s := holds 5 (message (.link 0) .uq .queued 33) State.reset;
        s.uq.recs = [5] ∧ (s.record 5).isSome = true) ∧
      (let s := holds 5 (message (.host 0) (express (.host 1)) .queued 33) State.reset;
        s.choice (.host 1) = some (5, .express, 0) ∧ (s.record 5).isSome = true) ∧
      (0x02 : Byte).getLsbD 1 = true ∧ (0x01 : Byte).getLsbD 1 = false := by decide +kernel

/-- Out bytes 3, 9, 10, 42 and 43 of a message of 33 bytes; and a FETCH with no readout record. -/
theorem witness_ReadoutBytes :
    (∀ i ∈ [3, 9, 10, 42, 43],
      let s := reading (i - 1)
      (s.port 1).tx = .running .fetch ∧ 2 ≤ (s.port 1).inCount ∧ (s.port 1).loan.map (·.recId) = some 5 ∧
        (s.port 1).readout = some 5 ∧ (s.record 5).map (fun r => (r.length, r.cells)) = some (33, [0, 1])) ∧
      ((within 1 .fetch 2 [] State.reset).port 1).readout = none := by decide +kernel

theorem witness_ReleaseEffect :
    ((opened 1 (reading 2)).port 1).tx = .opened ∧ ((opened 1 (reading 2)).port 1).fenced = false ∧
      ((opened 1 (reading 2)).port 1).loan.map (·.recId) = some 5 ∧ ((opened 1 (reading 2)).record 5).isSome = true ∧
      ((opened 0 State.reset).port 0).loan = none ∧ ((opened 0 (fenced 0 State.reset)).port 0).fenced = true := by
  decide +kernel

theorem witness_EventsSnapshot : ((opened 3 (chief 3 State.reset)).port 3).tx = .opened := by decide +kernel

theorem witness_MaskWrites :
    ∀ n ∈ [1, 2],
      ((within 0 .mask n [] State.reset).port 0).tx = .running .mask ∧
        ((within 0 .mask n [] State.reset).port 0).inCount = n := by decide +kernel

/-- The role vacant, held by the port with and without a loan from the UQ, and held by another. -/
theorem witness_RoleRequests :
    ((opened 0 State.reset).port 0).tx = .opened ∧ ((opened 0 (fenced 0 State.reset)).port 0).fenced = true ∧
      ((opened 0 State.reset).port 0).fenced = false ∧ (opened 0 State.reset).manager = none ∧
      (opened 0 (chief 0 State.reset)).manager = some 0 ∧ (opened 0 (chief 2 State.reset)).manager = some 2 ∧
      ((opened 0 (chief 0 State.reset)).port 0).loan = none ∧
      (let s := opened 0 (chief 0 ((holds 5 (message (.link 0) .uq .queued 33) State.reset).lend 0 5 .uq));
        (s.port 0).loan = some { recId := 5, queue := .uq } ∧ (s.record 5).isSome = true) := by decide +kernel

theorem witness_ItemReads :
    let s := within 2 .readItem 2 [0x14] State.reset
    (s.port 2).tx = .running .readItem ∧ (s.port 2).inCount = 2 ∧ (s.port 2).inBytes = [0x14] ∧
      (s.port 2).fenced = false ∧ s.itemValue 0x14 0x0D = none ∧ s.itemValue 0x14 0x0C = some [0, 0, 0, 0] ∧
      ((fenced 2 s).port 2).fenced = true := by decide +kernel

theorem writing_meets (id index v0 v1 v2 : Byte) (s : State) (h : (s.port 0).fenced = false) :
    WritesItem (writing id index v0 v1 v2 s) 0 id index v0 v1 v2 ∧ Manages (writing id index v0 v1 v2 s) 0 := by
  simp [WritesItem, Manages, writing, chief, within, State.setManager, State.port, State.setPort] at h ⊢
  exact h

/-- A write from a fenced port, without the role, of a read-only item and of ids 0x00, 0x0A and 0x15; a request with an
operand at the bound of its range and above it; a FENCE of the port itself; and RESTART. -/
theorem witness_RequestChecks :
    (∀ id ∈ [0x00, 0x0A, 0x0F, 0x10, 0x14, 0x15],
      commandOf 0 0x00 false ((writing id 0 0 0 0 State.reset).byteStep 0 0x00) = some (.writeItem 0 0x00 false)) ∧
      ((writing 0x10 0 0 0 0 (fenced 0 State.reset)).port 0).fenced = true ∧
      (within 0 .writeItem 6 [] State.reset).manager ≠ some 0 ∧
      (let s := chief 0 (within 0 .purge 1 [] State.reset);
        isAdmin .purge = true ∧ (s.port 0).tx = .running .purge ∧ (s.port 0).inCount = 1 ∧
          commandOf 0 0x05 false (s.byteStep 0 0x05) = some (.purge 0 0x05 false) ∧
          adminBound .purge < (0x05 : Byte).toNat) ∧
      (let s := chief 0 (within 0 .drain 1 [] State.reset);
        commandOf 0 0x02 false (s.byteStep 0 0x02) = some (.drain 0 0x02 false) ∧
          adminBound .drain < (0x02 : Byte).toNat) ∧
      (let s := chief 0 (within 0 .fence 1 [] State.reset);
        commandOf 0 0x00 false (s.byteStep 0 0x00) = some (.fence 0 0x00 false) ∧
          commandOf 0 0x04 false (s.byteStep 0 0x04) = some (.fence 0 0x04 false)) ∧
      ((opened 0 (fenced 0 State.reset)).port 0).fenced = true ∧ (opened 0 State.reset).manager ≠ some 0 := by
  decide +kernel

theorem witness_PlainItemWrites :
    WritesItem (writing 0x06 5 0 0 1 State.reset) 0 0x06 (partyByte (.link 1)) 0 0 1 ∧
      Manages (writing 0x06 5 0 0 1 State.reset) 0 ∧ (0x0F : Byte).toNat ≤ 15 ∧ 15 < (0x10 : Byte).toNat ∧
      (0x01 : Byte).toNat * 256 + (0xFF : Byte).toNat ≤ 511 ∧ 511 < (0x02 : Byte).toNat * 256 + (0x00 : Byte).toNat ∧
      6 ≤ (0x06 : Byte).toNat ∧ 4 ≤ (0x04 : Byte).toNat :=
  ⟨(writing_meets _ _ _ _ _ _ (by decide +kernel)).1, (writing_meets _ _ _ _ _ _ (by decide +kernel)).2, by decide⟩

/-- An index of 32, a valid field of 2, a primary of 6, an alternate of 6; an address that another entry holds, and a new
one. -/
theorem witness_RouteWrites :
    WritesItem (writing 0x01 31 1 0xF3 5 State.reset) 0 0x01 31 1 0xF3 5 ∧
      Manages (writing 0x01 31 1 0xF3 5 State.reset) 0 ∧
      31 < (0x20 : Byte).toNat ∧ 1 < (0x02 : Byte).toNat ∧ 5 < (0x06 : Byte).toNat ∧ (0x06 : Byte) ≠ 0xFF ∧
      (31 : Byte) = BitVec.ofNat 8 (31 : Fin 32).val ∧ (5 : Byte) = partyByte (.link 1) ∧
      (0xFF : Byte) = ((none : Option Party).map partyByte).getD 0xFF ∧
      (∃ j : Fin 32, j ≠ 31 ∧ (vget State.reset.routes j).valid = true ∧ (vget State.reset.routes j).address = 0xF3) ∧
      ¬∃ j : Fin 32, j ≠ 31 ∧ (vget State.reset.routes j).valid = true ∧ (vget State.reset.routes j).address = 0x20 :=
  ⟨(writing_meets _ _ _ _ _ _ (by decide +kernel)).1, (writing_meets _ _ _ _ _ _ (by decide +kernel)).2, by
    decide +kernel⟩

/-- Index 6; a guarantee above the limit; a sum above 512; a shared usage above the capacity it would leave; the limit
itself. A limit below the guarantee, at it, at 512 and above 512. -/
theorem witness_AccountWrites :
    WritesItem (writing 0x03 5 0 0 1 State.reset) 0 0x03 (partyByte (.link 1)) 0 0 1 ∧
      Manages (writing 0x03 5 0 0 1 State.reset) 0 ∧
      (let sum (s : State) (n : Nat) : Nat := sumParties fun i => if i = 5 then n else vget s.guarantee i
        let rise (s : State) (n : Nat) : Nat :=
          sumParties fun i => vget s.usage i - if i = 5 then n else vget s.guarantee i
        State.reset.lim (.link 1) < 257 ∧ sum State.reset 256 ≤ 512 ∧ rise State.reset 256 ≤ 512 - sum State.reset 256 ∧
          512 < sum (State.reset.setLimit (.link 1) 512) 512 ∧
          512 - sum (State.reset.setUsed (.host 0) 129) 256 < rise (State.reset.setUsed (.host 0) 129) 256) ∧
      31 < State.reset.guar (.host 0) ∧ State.reset.guar (.host 0) ≤ 32 ∧ (512 : Nat) ≤ 512 ∧ (512 : Nat) < 513 :=
  ⟨(writing_meets _ _ _ _ _ _ (by decide +kernel)).1, (writing_meets _ _ _ _ _ _ (by decide +kernel)).2, by
    decide +kernel⟩

/-- Values 0, 1, 16 and 17; a limit at the occupancy and below it; twelve limits that total 114 and 115; a DEPTH watch
that the new limit satisfies. -/
theorem witness_DepthWrites :
    WritesItem (writing 0x05 11 0 0 0 State.reset) 0 0x05 (classByte ⟨.link 1, .bulk⟩) 0 0 0 ∧
      Manages (writing 0x05 11 0 0 0 State.reset) 0 ∧ 11 < (0x0C : Byte).toNat ∧ 16 < (0x11 : Byte).toNat ∧
      (let s := State.reset.setClass ⟨.link 1, .bulk⟩ { recs := [], reserved := 2, depth := 8 };
        (s.qclass ⟨.link 1, .bulk⟩).occupancy = 2) ∧
      (let s := State.reset.setClass ⟨.host 0, .express⟩ { recs := [], reserved := 0, depth := 16 };
        s.sumDepthWith ⟨.link 1, .bulk⟩ 16 = 112 ∧
          (s.setClass ⟨.host 0, .bulk⟩ { recs := [], reserved := 0, depth := 10 }).sumDepthWith ⟨.link 1, .bulk⟩ 16 = 114 ∧
          (s.setClass ⟨.host 0, .bulk⟩ { recs := [], reserved := 0, depth := 11 }).sumDepthWith ⟨.link 1, .bulk⟩ 16 = 115) ∧
      ((port 3 (fun p => { p with watch := .depth ⟨.link 1, .bulk⟩ }) State.reset).port 3).watch =
        .depth ⟨.link 1, .bulk⟩ :=
  ⟨(writing_meets _ _ _ _ _ _ (by decide +kernel)).1, (writing_meets _ _ _ _ _ _ (by decide +kernel)).2, by
    decide +kernel⟩

/-- A field out of range; a write without a change of enable; an enable; and a disable in OFF, START and HOLD. -/
theorem witness_LinkCtrlWrites :
    WritesItem (writing 0x07 1 0x11 4 16 State.reset) 0 0x07 1 0x11 4 16 ∧
      Manages (writing 0x07 1 0x11 4 16 State.reset) 0 ∧
      commandOf 0 0x08 false ((writing 0x07 1 0x00 4 16 State.reset).byteStep 0 0x08) = some (.writeItem 0 0x08 false) ∧
      commandOf 0 0x08 false ((writing 0x07 1 0x10 4 16 State.reset).byteStep 0 0x08) = some (.linkEnable 0 0x08 false) ∧
      7 < (0x08 : Byte).toNat ∧ 16 < (0x11 : Byte).toNat ∧ 4 < (0x05 : Byte).toNat ∧ 1 < (0x12 : Byte).toNat % 16 ∧
      (State.reset.link 1).ctrl.enable = false ∧
      (∀ st ∈ [LinkState.off, .start, .hold],
        ((linked 1 st State.reset).link 1).ctrl.enable = true ∧ ((linked 1 st State.reset).link 1).state = st) :=
  ⟨(writing_meets _ _ _ _ _ _ (by decide +kernel)).1, (writing_meets _ _ _ _ _ _ (by decide +kernel)).2, by
    decide +kernel⟩

/-- An ACTIVE link with nothing to send, with an EOM begun, and in the middle of a frame; and one that is receiving. -/
theorem witness_LinkDisableFromActive :
    WritesItem (writing 0x07 0 0x00 4 16 (sending .eom)) 0 0x07 0 0x00 4 16 ∧
      Manages (writing 0x07 0 0x00 4 16 (sending .eom)) 0 ∧
      ((sending .eom).link 0).ctrl.enable = true ∧ ((sending .eom).link 0).state = .active ∧
      ((sending .eom).link 0).sending = some { recId := 5, progress := .eom } ∧ ((sending .eom).record 5).isSome = true ∧
      ((sending .eomBegun).link 0).sending = some { recId := 5, progress := .eomBegun } ∧
      ((receivingRecord .uq 33).link 0).sending = none ∧ (receivingRecord .uq 33).slot (.link 0) = some 5 :=
  ⟨(writing_meets _ _ _ _ _ _ (by decide +kernel)).1, (writing_meets _ _ _ _ _ _ (by decide +kernel)).2, by
    decide +kernel⟩

/-- A port unfenced and fenced; its transaction open and not; and a POST in FILLING. -/
theorem witness_FenceEffect :
    (∀ r ∈ [Request.fence, .unfence],
      let s := chief 1 (within 1 r 1 [] (posting 3))
      (s.port 1).inCount = 1 ∧ (s.port 1).tx = .running r ∧ (s.port 1).fenced = false ∧ s.manager = some 1 ∧
        (s.port 0).fenced = false ∧ ((fenced 0 s).port 0).fenced = true ∧ (s.port 0).tx = .running .post ∧
        (s.port 0).phase = .filling ∧ s.slot (.host 0) = some 5 ∧ (s.port 2).tx = .idle ∧
        ((opened 2 s).port 2).tx = .opened) := by decide +kernel

/-! Two sound states that are not the reset state. In both record 5 is on loan to port 1, whose FETCH is open, port 0, the
manager, is about to purge that inbox, port 2 is at in byte 5 of a POST, port 3 holds a CELLS watch, and link 0 is ACTIVE
with 8 reserved cells. Without `w` that is its window, and the purge is next in the queue. With `w` its window is 9, the
POST waits next, and the reserve one of link 0 is left to be made after that POST. -/

/-- The record on loan. -/
def lentMessage : Record := message (.host 0) (express (.host 1)) .loaned 33

/-- Link 0, settled, with cells 2 to 9 reserved and their GRANTs pending. -/
def activeLink (w : Bool) : Link :=
  { Link.reset with
    ctrl := { Link.reset.ctrl with enable := true, window := if w then 9 else 8 }, state := .active, silence := true
    reserved := [2, 3, 4, 5, 6, 7, 8, 9], pendingGrants := 8 }

/-- The states. -/
def busy (w : Bool) : State :=
  { (((port 3 (fun p => { p with watch := .cells 1 })
              (judgingOn 2 0xF3 0x03 0x00 (chief 0 (within 0 .purge 1 [] (reading 2))))).setFree
            (allCells.drop 10)).setUsed
          (.link 0) 8).setLink
      0 (activeLink w) with
    owed := if w then [0] else []
    pending := if w then [.post 2 0x21 false] else [.purge 0 1 false] }

theorem busy_record (w : Bool) (n : RecId) : (busy w).record n = if n = 5 then some lentMessage else none := by
  revert n
  cases w <;> decide +kernel

theorem busy_slot (w : Bool) (p : Party) : (busy w).slot p = none := by
  rcases p with k | x
  · revert k
    cases w <;> decide +kernel
  · revert x
    cases w <;> decide +kernel

theorem busy_queue (w : Bool) (t : Target) : queueOf (busy w) t = if t = express (.host 1) then [5] else [] := by
  rcases t with ⟨k | x, _ | _⟩ | _ | _
  · revert k
    cases w <;> decide +kernel
  · revert k
    cases w <;> decide +kernel
  · revert x
    cases w <;> decide +kernel
  · revert x
    cases w <;> decide +kernel
  · cases w <;> decide +kernel
  · cases w <;> decide +kernel

theorem busy_reserved (w : Bool) (t : Target) : reservedFor (busy w) t = 0 := by
  rcases t with ⟨k | x, _ | _⟩ | _ | _
  · revert k
    cases w <;> decide +kernel
  · revert k
    cases w <;> decide +kernel
  · revert x
    cases w <;> decide +kernel
  · revert x
    cases w <;> decide +kernel
  · cases w <;> decide +kernel
  · cases w <;> decide +kernel

theorem busy_depth (w : Bool) (q : QueueId) : ((busy w).qclass q).depth = 8 ∧ ((busy w).qclass q).occupancy ≤ 8 := by
  rcases q with ⟨k | x, _ | _⟩
  · revert k
    cases w <;> decide +kernel
  · revert k
    cases w <;> decide +kernel
  · revert x
    cases w <;> decide +kernel
  · revert x
    cases w <;> decide +kernel

theorem busy_loan (w : Bool) (k : PortId) :
    ((busy w).port k).loan = if k = 1 then some { recId := 5, queue := .inbox .express } else none := by
  revert k
  cases w <;> decide +kernel

theorem busy_link (w : Bool) (x : LinkId) : (busy w).link x = if x = 0 then (activeLink w) else Link.reset := by
  revert x
  cases w <;> decide +kernel

theorem busy_snapshot (w : Bool) (k : PortId) : ((busy w).port k).snapshot = none := by
  revert k
  cases w <;> decide +kernel

theorem busy_cells (w : Bool) : CellsConserved (busy w) := by
  have e : (busy w).free ++ recordCells (busy w) ++ ((busy w).link 0).reserved ++ ((busy w).link 1).reserved =
      allCells.drop 10 ++ allCells.take 10 := by cases w <;> decide +kernel
  unfold CellsConserved
  rw [e]
  exact List.perm_append_comm.trans (by rw [List.take_append_drop])

theorem busy_charges (w : Bool) : UsageExact (busy w) := by
  rintro (k | x)
  · revert k
    cases w <;> decide +kernel
  · revert x
    cases w <;> decide +kernel

theorem busy_accounts (w : Bool) : AccountLaws (busy w) := by
  refine ⟨?_, by cases w <;> decide +kernel, by cases w <;> decide +kernel⟩
  rintro (k | x)
  · revert k
    cases w <;> decide +kernel
  · revert x
    cases w <;> decide +kernel

theorem busy_references (w : Bool) : ReferencesSound (busy w) where
  slots := by
    intro p n h
    simp [busy_slot] at h
  queues := by
    intro t n h
    rw [busy_queue] at h
    split at h
    · obtain rfl : n = 5 := by simpa using h
      subst t
      exact ⟨lentMessage, by cases w <;> decide +kernel, rfl, by decide⟩
    · simp at h
  once := by
    intro t
    rw [busy_queue]
    split <;> simp
  loans := by
    intro k l h
    rw [busy_loan] at h
    split at h
    · subst k
      obtain rfl : { recId := 5, queue := .inbox .express } = l := by simpa using h
      exact ⟨⟨lentMessage, by cases w <;> decide +kernel, rfl⟩, by cases w <;> decide +kernel⟩
    · simp at h
  loansApart := by
    intro k k' l l' h h' _
    rw [busy_loan] at h h'
    split at h <;> split at h' <;> simp_all
  sendings := by
    intro x sd h
    rw [busy_link] at h
    split at h <;> simp [activeLink, Link.reset] at h

theorem busy_placed (w : Bool) : RecordsPlaced (busy w) where
  assembling := by
    intro n r h hs
    rw [busy_record] at h
    split at h <;> simp_all
    subst h
    simp [lentMessage, message] at hs
  committed := by
    intro n r h _
    rw [busy_record] at h
    split at h <;> simp_all
    subst h
    cases w <;> decide +kernel
  loaned := by
    intro n r h _
    rw [busy_record] at h
    split at h <;> simp_all
    exact ⟨1, { recId := 5, queue := .inbox .express }, by cases w <;> decide +kernel, rfl⟩
  sending := by
    intro n r h hs
    rw [busy_record] at h
    split at h <;> simp_all
    subst h
    simp [lentMessage, message] at hs

theorem busy_records (w : Bool) (n : RecId) (r : Record) (h : (busy w).record n = some r) : RecordLaws r ∧ CellsFit r := by
  rw [busy_record] at h
  split at h
  · obtain rfl : lentMessage = r := by simpa using h
    refine ⟨⟨by decide, by decide, by decide, ?_, ?_, by decide, by decide⟩, by decide, by decide⟩
    · intro q hq
      simp only [lentMessage, message, express, Target.queue.injEq] at hq ⊢
      subst hq
      rfl
    · intro x c hq
      simp [lentMessage, message, express] at hq
  · simp at h

theorem busy_store (w : Bool) : StoreSound (busy w) where
  cells := (busy_cells w)
  charges := (busy_charges w)
  accounts := (busy_accounts w)
  references := (busy_references w)
  placed := (busy_placed w)
  slots := by
    refine ⟨by cases w <;> decide +kernel, by cases w <;> decide +kernel⟩
  records := (busy_records w)
  reservations := by
    intro t _
    rw [busy_reserved]
    have e : assemblesFor (busy w) t = fun _ => false := by
      funext n
      unfold assemblesFor
      rw [busy_record]
      by_cases h : n = 5 <;> simp [h, lentMessage, message]
    rw [e]
    simp
  occupancy := ⟨fun q => by simpa [(busy_depth w q).1] using (busy_depth w q).2, by cases w <;> decide +kernel⟩
  depths := ⟨fun q => by simp [(busy_depth w q).1], by cases w <;> decide +kernel⟩

theorem busy_items (w : Bool) : ItemsLegal (busy w) where
  routes := by
    unfold RoutesUnique
    cases w <;> decide +kernel
  depths := (busy_store w).depths
  runLimits := by cases w <;> decide +kernel
  runCounts := by cases w <;> decide +kernel
  ctrls := by
    intro x
    rw [busy_link]
    cases w <;> split <;> exact ⟨by decide, by decide, by decide, by decide, by decide⟩
  lowMark := by cases w <;> decide +kernel
  postTimeout := by cases w <;> decide +kernel

theorem busy_ports (w : Bool) : PortsSound (busy w) where
  ports := by
    intro k
    have e : ((busy w).port k).selLow = false → ((busy w).port k).tx = .idle := by
      revert k
      cases w <;> decide +kernel
    have e' : ((busy w).port k).phase ≠ .noPost → ((busy w).port k).tx = .running .post := by
      revert k
      cases w <;> decide +kernel
    have t : ((busy w).port k).timer = none := by
      revert k
      cases w <;> decide +kernel
    have e'' : ((busy w).port k).readout ≠ none → ((busy w).port k).tx = .running .fetch := by
      revert k
      cases w <;> decide +kernel
    exact ⟨e, e', by simp [t], e'', by simp [busy_snapshot]⟩
  role :=
    { unfenced := by cases w <;> decide +kernel
      vacantMask := by cases w <;> decide +kernel
      uqLoan := by
        intro k l h hq
        rw [busy_loan] at h
        split at h <;> simp_all
        subst h
        simp at hq }
  snapshots := by
    intro k sn h
    simp [busy_snapshot] at h

theorem busy_links (w : Bool) (x : LinkId) : LinkLaws ((busy w).link x) := by
  rw [busy_link]
  split
  · cases w <;>
      exact
        ⟨⟨by decide, by decide, by decide, by decide, by decide⟩, by decide, by decide, by decide, by decide, by decide,
          by decide, by decide, by decide, by simp [activeLink, Link.reset]⟩
  · exact
      ⟨⟨by decide, by decide, by decide, by decide, by decide⟩, by decide, by decide, by decide, by decide, by decide,
        by decide, by decide, by decide, by simp [Link.reset]⟩

/-- A sound state in which a step goes on: for SoundKept and SoundStepsGoOn. -/
theorem witness_Sound (w : Bool) : Sound (busy w) ∧ (nextOf (step (busy w))).isSome = true :=
  ⟨⟨(busy_store w), (busy_items w), (busy_ports w), (busy_links w), by
      intro x h
      rw [busy_link] at h
      split at h <;> simp [activeLink, Link.reset] at h, by cases w <;> decide +kernel⟩,
    by cases w <;> decide +kernel⟩

theorem witness_CellsConservedKept : CellsConserved (busy false) ∧ (nextOf (step (busy false))).isSome = true :=
  ⟨busy_cells false, (witness_Sound false).2⟩

theorem witness_AccountLawsKept : AccountLaws (busy false) ∧ (nextOf (step (busy false))).isSome = true :=
  ⟨busy_accounts false, (witness_Sound false).2⟩

theorem witness_ItemsAndMemoryKept :
    ItemsLegal (busy false) ∧ (busy false).mem.wf = true ∧ (nextOf (step (busy false))).isSome = true :=
  ⟨busy_items false, by decide +kernel, (witness_Sound false).2⟩

theorem witness_PortsKept : PortsSound (busy false) ∧ (nextOf (step (busy false))).isSome = true :=
  ⟨busy_ports false, (witness_Sound false).2⟩

theorem witness_LinksKept : (∀ x, LinkLaws ((busy false).link x)) ∧ (nextOf (step (busy false))).isSome = true :=
  ⟨busy_links false, (witness_Sound false).2⟩

/-- A claim of the whole headroom, 254, and of one cell more. -/
theorem witness_HeadroomGrants :
    AccountLaws (busy false) ∧ CellsConserved (busy false) ∧ UsageExact (busy false) ∧
      (busy false).headroom (.host 0) = 254 ∧
      (busy false).grants (.host 0) 254 = true ∧ (busy false).grants (.host 0) 255 = false :=
  ⟨busy_accounts false, busy_cells false, busy_charges false, by decide +kernel⟩

/-- Link 0 is ACTIVE at its window; and below it, able to reserve, with its reserve one left to a POST that waits. -/
theorem witness_ReservesKept :
    (∀ w, Sound (busy w) ∧ ReservesDone (busy w) ∧ ((busy w).link 0).state = .active ∧
      (nextOf (step (busy w))).isSome = true) ∧
      (busy true).waitingPost = some (2, 0x21) ∧ (busy true).owed = [0] ∧ (busy false).owed = [] ∧
      (busy true).canReserve 0 = true :=
  ⟨fun w =>
    ⟨(witness_Sound w).1, ⟨by cases w <;> decide +kernel, by cases w <;> decide +kernel⟩, by cases w <;> decide +kernel,
      (witness_Sound w).2⟩,
    by decide +kernel⟩

/-- The POST that waits is taken, and the reserve one left to be made follows it. -/
theorem test_step_owed :
    (nextOf (step (busy true))).any
      (fun t => (t.record 0).map (·.cells) == some [10, 11] && (t.link 0).reserved.length == 9 && t.owed == [] &&
          !t.canReserve 0) = true := by decide +kernel

/-- An ACTIVE link below its window that could reserve one cell more and then no other, and a CELLS watch on port 3 whose
claim is granted before it and after it, with a command waiting and reserve ones left to it, and with none; a link at its
window; a claim that is not granted; and low marks that the reserve one passes, and just does not. -/
theorem witness_ReservationsSettle :
    (∀ w, AccountLaws (busy w) ∧ CellsConserved (busy w) ∧ UsageExact (busy w)) ∧
      (let s := busy true;
        s.comesBetween = true ∧ s.owed ≠ [] ∧ s.canReserve 0 = true ∧ (s.reserveOne 0).canReserve 0 = false ∧
          (s.port 3).watch = .cells 1 ∧ s.grants (.host 3) 1 = true ∧ (s.reserveOne 0).grants (.host 3) 1 = true ∧
          { s with pending := [] }.canReserve 0 = true) ∧
      ((busy false).owed = [] ∧ (busy false).canReserve 0 = false ∧ (busy false).grants (.host 0) 255 = false) ∧
      let s := busy true
      LowMarkPassed (s.setLowMark s.free.length) ((s.setLowMark s.free.length).reserveOne 0) ∧
        ¬LowMarkPassed (s.setLowMark (s.free.length - 1)) ((s.setLowMark (s.free.length - 1)).reserveOne 0) :=
  ⟨fun w => ⟨busy_accounts w, busy_cells w, busy_charges w⟩, by decide +kernel, by decide +kernel, by
    unfold LowMarkPassed
    decide +kernel⟩

/-- A reserve one that passes the low mark raises CELLS LOW and notes it in the manager's open snapshot; one that does not
raises nothing (R4, R124). -/
theorem test_reserveOne_cellsLow :
    let opens := fun p : Port => { p with snapshot := some { host := 0, hostLate := 0, mgr := some (0x80, 0) } }
    (∀ n ∈ [0, 511],
      (((linked 0 .active State.reset).setLowMark n).reserveOne 0).mgrSet = 0) ∧
      let t := ((port 2 opens (linked 0 .active State.reset)).setLowMark 512).reserveOne 0
      t.mgrSet = 0x80 ∧ (t.port 2).snapshot = some { host := 0, hostLate := 0, mgr := some (0x80, 0x80) } := by
  decide +kernel

/-- Which comes first is open: with the free value even the command that waits does, and the reserve one is left to be made
after it; with it odd the reserve one is made at once (logs 7 and 29). -/
theorem witness_ReservationsSettle_order :
    let s : State := { busy true with owed := [] }
    (Config.freeTie s.ties % 2 = 0 →
        (s.accountsEvent [0] false).owed = [0] ∧ (s.accountsEvent [0] false).canReserve 0 = true) ∧
      (Config.freeTie s.ties % 2 = 1 →
        (s.accountsEvent [0] false).owed = [] ∧ ((s.accountsEvent [0] false).link 0).reserved.length = 9) := by
  intro s
  have e : s.accountsEvent [0] false = State.contend 2 [0] false s := by
    have h : s.trying [0] = [0] ∧ ([0].map s.windowRoom).sum + 1 = 2 := by decide +kernel
    unfold State.accountsEvent
    rw [h.1, h.2]
  have c : s.contenders [0] false = [.command, .link 0] := by decide +kernel
  constructor <;> intro h
  · have n : s.nextContender [0] false = some (.command, { s with ties := s.ties + 1 }) := by
      simp [State.nextContender, c, h]
    rw [e, State.contend, n]
    decide +kernel
  · have n : s.nextContender [0] false = some (.link 0, { s with ties := s.ties + 1 }) := by
      simp [State.nextContender, c, h]
    rw [e, State.contend, n]
    decide +kernel

/-- Both links entering ACTIVE together: the reserve ones that link 0 has left at its own entry stand beside those of link 1, and
beside a LIMIT write that waits, so that any of the three may come next (R28). -/
theorem test_links_enter_together :
    let s : State :=
      { writing 0x04 0 0 0 0 (linked 1 .active (linked 0 .active State.reset)) with
        owed := [0], pending := [.limitWrite 0 0 false] }
    s.trying [1] = [0, 1] ∧ s.contenders (s.trying [1]) false = [.command, .link 0, .link 1] ∧
      (s.reserveOne 0).contenders [0, 1] false = [.command, .link 0, .link 1] ∧
      { s with pending := [] }.contenders [0, 1] false = [.link 0, .link 1] := by decide +kernel

/-- The manager's purge of an inbox with a loan, and of the UQ with one. -/
theorem witness_PurgeEffect :
    ((busy false).port 0).tx = .running .purge ∧ ((busy false).port 0).inCount = 1 ∧ Manages (busy false) 0 ∧
      (1 : Byte) = BitVec.ofNat 8 1 ∧
      (((busy false).port 1).loan.any fun o => o.queue != .uq) = true ∧ ReferencesSound (busy false) ∧
      let s := chief 0 ((holds 5 (message (.link 0) .uq .queued 33) State.reset).lend 0 5 .uq)
      s.uq.recs = [5] ∧ ((s.port 0).loan.any fun o => o.queue == .uq) = true :=
  ⟨by decide +kernel, by decide +kernel, ⟨by decide +kernel, by decide +kernel⟩, rfl, by decide +kernel,
    busy_references false,
    by decide +kernel⟩

/-- A link sending a frame, one with its EOM begun, one with nothing to send, and one that is OFF. -/
theorem witness_DrainEffect :
    (∀ p ∈ [Progress.header 1, .eom, .eomBegun],
      let s := chief 0 (within 0 .drain 1 [] (sending p))
      (s.port 0).tx = .running .drain ∧ (s.port 0).inCount = 1 ∧ (s.port 0).fenced = false ∧ s.manager = some 0 ∧
        (s.qclass ⟨.link 0, .express⟩).recs = [5] ∧ (s.link 0).sending = some { recId := 5, progress := p } ∧
        (s.link 1).state = .off) ∧
      ReferencesSound (busy false) := ⟨by decide +kernel, busy_references false⟩

/-- The other ports: IDLE, with an open transaction, and ENDED. -/
theorem witness_RestartEffect :
    let s := chief 0 (opened 0 (port 2 Port.endTx (opened 2 (reading 4))))
    (s.port 0).tx = .opened ∧ (s.port 0).fenced = false ∧ s.manager = some 0 ∧ (s.port 1).tx = .running .fetch ∧
      (s.port 2).tx = .ended ∧ (s.port 3).tx = .idle := by decide +kernel

/-- START with 6 and 7 FILLs sent; ACTIVE with settle counts 2, 1 and 0; nothing to send; a GRANT pending; a choice to
make. -/
theorem witness_SendFillAndGrant :
    (∀ n ∈ [6, 7],
      let l := (link 0 (fun l => { l with fillsSent := n, fillSeen := true }) (linked 0 .start State.reset)).link 0
      l.abmDue = false ∧ l.sending = none ∧ l.state = .start ∧ l.fillsSent = n ∧ l.fillSeen = true) ∧
      (∀ n ∈ [0, 1, 2],
        let l := (link 0 (fun l => { l with settle := n }) (linked 0 .active State.reset)).link 0
        l.abmDue = false ∧ l.state = .active ∧ l.settle = n ∧ l.pendingGrants = 0 ∧ l.sending = none) ∧
      ((link 0 (fun l => { l with pendingGrants := 1 }) (sending .eom)).link 0).pendingGrants = 0 + 1 ∧
      (State.reset.link 0).state = .off ∧ ((linked 0 .hold State.reset).link 0).state = .hold ∧
      let s := linked 0 .active (holds 5 (message (.host 0) (express (.link 0)) .queued 33) State.reset)
      s.choice (.link 0) = some (5, .express, 0) ∧ (s.record 5).isSome = true ∧ (s.link 0).sending = none := by
  decide +kernel

/-- Header bytes 1 and 6; payload bytes 0, 31 and 32 of 33, with and without credit. -/
theorem witness_SendFrameBytes :
    (∀ p ∈ [Progress.header 1, .header 6, .payload 0, .payload 31, .payload 32],
      let s := sending p
      (s.link 0).state = .active ∧ (s.link 0).settle = 0 ∧ (s.link 0).abmDue = false ∧ (s.link 0).pendingGrants = 0 ∧
        (s.record 5).map (·.cells) = some [0, 1] ∧ (s.link 0).sending = some { recId := 5, progress := p } ∧
        (s.link 0).credit = 0) ∧
      ((link 0 (fun l => { l with credit := 1 }) (sending (.payload 32))).link 0).credit = 0 + 1 := by decide +kernel

/-- An EOM next, and one begun, on a link that is ACTIVE and on one that has left it; an ABM due. -/
theorem witness_SendEomAndAbm :
    (let l := (sending .eom).link 0;
      l.sending = some { recId := 5, progress := .eom } ∧ ((sending .eom).record 5).isSome = true ∧ l.state = .active ∧
        l.settle = 0 ∧ l.abmDue = false ∧ l.pendingGrants = 0) ∧
      ((linked 0 .hold (sending .eomBegun)).link 0).sending = some { recId := 5, progress := .eomBegun } ∧
      ((link 0 (fun l => { l with abmDue := true }) State.reset).link 0).abmDue = true := by decide +kernel

/-- The four states; seven and eight FILLs sent; credits 15 and 16. -/
theorem witness_FillAndGrantReceived :
    (∀ st ∈ [LinkState.off, .start, .active, .hold], ((linked 0 st State.reset).link 0).state = st) ∧
      (∀ n ∈ [7, 8],
        ((link 0 (fun l => { l with fillsSent := n }) (linked 0 .start State.reset)).link 0).fillsSent = n) ∧
      (∀ n ∈ [15, 16],
        ((link 0 (fun l => { l with credit := n }) (linked 0 .active State.reset)).link 0).credit = n) := by
  decide +kernel

/-- No message open; one header byte, four and five; lengths 0, 1, 1024 and 1025 with a free record. -/
theorem witness_HeaderReceived :
    ((linked 0 .active State.reset).link 0).state = .active ∧ ((linked 0 .active State.reset).link 0).isOpen = false ∧
      (∀ n ∈ [1, 4, 5],
        let l := (receiving (header.take n)).link 0
        l.state = .active ∧ l.isOpen = true ∧ l.hdr.length = n) ∧
      ((receiving (header.take 5)).link 0).hdr = [0xF1, 0x20, 0x03, 0x07, 0x00] ∧
      (receiving (header.take 5)).record 0 = none ∧
      [(0x00, 0x00), (0x00, 0x01), (0x04, 0x00), (0x04, 0x01)].map
          (fun p : Byte × Byte => p.1.toNat * 256 + p.2.toNat) = [0, 1, 1024, 1025] := by decide +kernel

/-- Byte 0 with a reserved cell and without; byte 32 of two cells; a byte within a cell; and a byte beyond the length. -/
theorem witness_PayloadReceived :
    (∀ f ∈ [0, 32],
      let s := link 0 (fun l => { l with reserved := [2] }) (receivingRecord (express (.host 1)) 0)
      let r := { message (.link 0) (express (.host 1)) .assembling f with cells := (if f = 32 then [0] else []) }
      let s := s.setRecord 5 (some r)
      (s.link 0).state = .active ∧ (s.link 0).isOpen = true ∧ (s.link 0).hdr.length = 6 ∧ s.slot (.link 0) = some 5 ∧
        s.record 5 = some r ∧ s.mem.wf = true ∧ r.filled < r.length ∧ r.filled % 32 = 0 ∧
        (s.link 0).reserved = [2] ∧ r.cells.length = r.filled / 32) ∧
      ((link 0 (fun l => { l with reserved := [] }) (receivingRecord .uq 0)).link 0).reserved = [] ∧
      (let r := { message (.link 0) .uq .assembling 31 with cells := [2] };
        r.filled < r.length ∧ r.filled % 32 ≠ 0 ∧ r.cells[r.filled / 32]? = some 2) ∧
      (message (.link 0) .uq .assembling 33).length ≤ (message (.link 0) .uq .assembling 33).filled := by decide +kernel

/-- No message open; five header bytes; a whole record for a queue and for DROP; a short one. -/
theorem witness_EndingsReceived :
    ((linked 0 .active State.reset).link 0).isOpen = false ∧ ((receiving (header.take 5)).link 0).hdr.length < 6 ∧
      (receiving (header.take 5)).slot (.link 0) = none ∧
      (∀ f ∈ [0, 32, 33],
        ∀ t ∈ [express (.host 1), .uq, .drop],
          let s := receivingRecord t f
          (s.link 0).state = .active ∧ (s.link 0).isOpen = true ∧ 6 ≤ (s.link 0).hdr.length ∧
            s.slot (.link 0) = some 5 ∧ s.record 5 = some (message (.link 0) t .assembling f)) := by decide +kernel

/-- Ten bits that are no symbol; the silence timer running; every state; a sending record with resends below its limit
and at it, with a place in the UQ and without; and a HOLD with either exit. -/
theorem witness_FaultAndHold :
    decodeSymbol 0 = none ∧ ((sending .eom).link 0).state = .active ∧ ((sending .eom).link 0).silence = true ∧
      ((receiving header).link 0).sending = none ∧
      (∀ n ∈ [2, 3],
        let r := { message (.host 0) (express (.link 0)) .sending 33 with resends := n }
        let s := (sending .eom).setRecord 5 (some r)
        (s.link 0).sending = some { recId := 5, progress := .eom } ∧ s.record 5 = some r ∧
          (s.link 0).ctrl.resendLimit = 3 ∧ s.uq.recs.length + s.uq.reserved < 8 ∧
          8 ≤ ((s.setUq { recs := [], reserved := 8 }).uq).reserved) ∧
      (∀ e ∈ [HoldExit.start, .autoRestart],
        let l := (link 0 (fun l => { l with holdExit := e }) (linked 0 .hold State.reset)).link 0
        l.state = .hold ∧ l.holdTimer = true ∧ l.holdExit = e ∧ l.ctrl.autoRestart = false) ∧
      (State.reset.link 0).state = .off ∧ ((linked 0 .start State.reset).link 0).state = .start := by decide +kernel

theorem witness_SymbolCode :
    decodeSymbol 0b1111000010#10 = some .fill ∧ decodeSymbol 0b1111000010#10 ≠ none := by decide +kernel

end Sys2Proof.Tests
end

section
/-! SUPPORT. The commit of a record (R12, R67): what it does to the queue and the reserved places of its target, and the
event that follows it. -/

namespace Sys2Proof.Machine

open Sys2Proof.Safety

/-! ### A reserved place turned into a committed entry -/

/-- In a queue class the release of the place and the entry at the tail are one write of the class (R67). -/
theorem State.enqueue_releasePlace_queue (s : State) (n : RecId) (q : QueueId) :
    (s.releasePlace (.queue q)).enqueue n (.queue q) =
      s.setClass q
        { s.qclass q with recs := (s.qclass q).recs ++ [n], reserved := (s.qclass q).reserved - 1 } := by
  simp [State.releasePlace, State.enqueue]

/-- In the UQ they are one write of the UQ (R53, R67). -/
theorem State.enqueue_releasePlace_uq (s : State) (n : RecId) :
    (s.releasePlace .uq).enqueue n .uq = s.setUq { recs := s.uq.recs ++ [n], reserved := s.uq.reserved - 1 } := rfl

/-- The record then stands at the tail of its target. -/
theorem queueOf_enqueue_releasePlace (s : State) (n : RecId) {t : Target} (ht : t ≠ .drop) :
    queueOf ((s.releasePlace t).enqueue n t) t = queueOf s t ++ [n] := by
  cases t with
  | queue q => rw [State.enqueue_releasePlace_queue]; simp [queueOf]
  | uq => rfl
  | drop => exact absurd rfl ht

/-- One place fewer is then reserved for its target. -/
theorem reservedFor_enqueue_releasePlace (s : State) (n : RecId) (t : Target) :
    reservedFor ((s.releasePlace t).enqueue n t) t = reservedFor s t - 1 := by
  cases t with
  | queue q => rw [State.enqueue_releasePlace_queue]; simp [reservedFor]
  | uq => rfl
  | drop => rfl

/-! ### Updates that leave every queue and reserved place -/

/-- What is committed to a target is read from the queue classes and the UQ alone. -/
theorem queueOf_congr {s u : State} (hc : u.classes = s.classes) (hu : u.uq = s.uq) (t : Target) :
    queueOf u t = queueOf s t := by
  cases t <;> simp only [queueOf, State.qclass, hc, hu]

/-- What is reserved for a target is read from the queue classes and the UQ alone. -/
theorem reservedFor_congr {s u : State} (hc : u.classes = s.classes) (hu : u.uq = s.uq) (t : Target) :
    reservedFor u t = reservedFor s t := by
  cases t <;> simp only [reservedFor, State.qclass, hc, hu]

/-- The transmitter's choice takes no record out of its queue: a sending record stays at the head (R13, R168). -/
theorem State.transmitterChoose_queues (s : State) (x : LinkId) :
    (s.transmitterChoose x).classes = s.classes ∧ (s.transmitterChoose x).uq = s.uq := by
  rcases s.transmitterChoose_cases x with h | ⟨m, c, k, -, -, -, -, -, h⟩ <;> rw [h]
  · exact ⟨rfl, rfl⟩
  · simp [State.setRecState_spec]

/-- The event of a commit leaves every queue and every reserved place (R12). -/
theorem State.commitEvent_queues (s : State) (t : Target) :
    (s.commitEvent t).classes = s.classes ∧ (s.commitEvent t).uq = s.uq := by
  cases t with
  | queue q =>
    obtain ⟨d, c⟩ := q
    cases d with
    | host k => exact ⟨rfl, rfl⟩
    | link x => exact s.transmitterChoose_queues x
  | uq => exact ⟨rfl, rfl⟩
  | drop => exact ⟨rfl, rfl⟩

@[simp] theorem queueOf_commitEvent (s : State) (t u : Target) : queueOf (s.commitEvent t) u = queueOf s u := by
  obtain ⟨hc, hu⟩ := s.commitEvent_queues t
  exact queueOf_congr hc hu u

@[simp] theorem reservedFor_commitEvent (s : State) (t u : Target) :
    reservedFor (s.commitEvent t) u = reservedFor s u := by
  obtain ⟨hc, hu⟩ := s.commitEvent_queues t
  exact reservedFor_congr hc hu u

/-! ### The commit -/

section
variable {s : State} {n : RecId} {r : Record} (h : s.record n = some r)
include h

/-- A commit puts the record at the tail of its target (R67). -/
theorem State.queueOf_commit (ht : r.target ≠ .drop) : queueOf (s.commit n) r.target = queueOf s r.target ++ [n] := by
  rw [State.commit_spec h, queueOf_commitEvent, queueOf_enqueue_releasePlace _ n ht]
  exact congrArg (· ++ [n]) (queueOf_congr rfl rfl r.target)

/-- A commit lowers the places reserved for its target by one (R67). -/
theorem State.reservedFor_commit : reservedFor (s.commit n) r.target = reservedFor s r.target - 1 := by
  rw [State.commit_spec h, reservedFor_commitEvent, reservedFor_enqueue_releasePlace]
  exact congrArg (· - 1) (reservedFor_congr rfl rfl r.target)

/-- A commit of a record for which a place was reserved leaves the occupancy of its target (R61, R67). -/
theorem State.occupancy_commit (hr : 1 ≤ reservedFor s r.target) :
    (queueOf (s.commit n) r.target).length + reservedFor (s.commit n) r.target =
      (queueOf s r.target).length + reservedFor s r.target := by
  have ht : r.target ≠ .drop := by
    intro e
    simp [e, reservedFor] at hr
  rw [State.queueOf_commit h ht, State.reservedFor_commit h, List.length_append, List.length_singleton]
  omega

end

/-- Settles O9: by the target, the commit is one write of its class or of the UQ and then the event of that target; the
occupancy stands because the entry takes the reserved place. -/
theorem commitEffect : Obligations.CommitEffect := by
  intro n r s h
  refine ⟨fun k c ht => ?host, fun x c ht => ?link, fun ht => ?uq, State.occupancy_commit h⟩
  case host =>
    rw [State.commit_spec h, ht, State.enqueue_releasePlace_queue]
    rfl
  case link =>
    rw [State.commit_spec h, ht, State.enqueue_releasePlace_queue]
    rfl
  case uq =>
    rw [State.commit_spec h, ht, State.enqueue_releasePlace_uq]
    rfl

end Sys2Proof.Machine
end

section
/-! SUPPORT. The figures of the accounts (R25 to R27): sums over the six sources, the free cell count as what the six
usages leave, and the headroom as the measure of the admission test. -/

namespace Sys2Proof.Machine

/-! ### Sums over the sources -/

theorem sumParties_eq_sum (f : Fin 6 → Nat) : sumParties f = ∑ i, f i := by rw [sumParties, Fin.sum_univ_six]

/-- The figure of one source is at most the sum. -/
theorem le_sumParties (f : Fin 6 → Nat) (i : Fin 6) : f i ≤ sumParties f := by
  rw [sumParties_eq_sum]
  exact Finset.single_le_sum (fun _ _ => Nat.zero_le _) (Finset.mem_univ i)

/-- The usages with what is unused of each guarantee, and the guarantees with what is used above each, are the same sum:
source by source, each is the larger of the two figures. -/
theorem sumParties_add_unused (u g : Fin 6 → Nat) :
    (sumParties u + sumParties fun i => g i - u i) = sumParties g + sumParties fun i => u i - g i := by
  simp only [sumParties_eq_sum, ← Finset.sum_add_distrib]
  exact Finset.sum_congr rfl fun i _ => by omega

end Sys2Proof.Machine

namespace Sys2Proof.Safety

open Sys2Proof.Machine

/-! ### Free cells -/

/-- Over the six sources, the cells of a record are charged once: to its origin (R23). -/
theorem sumParties_cellsCharged (s : State) (n : RecId) :
    (sumParties fun i => cellsCharged s (Party.ofNum i) n) = (((s.record n).map (·.cells)).getD []).length := by
  cases h : s.record n with
  | none => simp [cellsCharged, h, sumParties]
  | some r =>
    have origin (i : Fin 6) : r.origin = Party.ofNum i ↔ r.origin.num = i := by
      rw [← Party.num_inj, Party.num_ofNum]
    simp [cellsCharged, h, sumParties_eq_sum, origin]

/-- The charges of all records to all sources are the cells of all records. -/
theorem sumParties_charges (s : State) :
    (sumParties fun i => ((List.finRange 128).map (cellsCharged s (Party.ofNum i))).sum) = (recordCells s).length := by
  simp only [recordCells, List.length_flatMap, ← sumParties_cellsCharged, sumParties, List.sum_map_add]

/-- Of the six sources, only the two links have a reserved list (R3). -/
theorem sumParties_reservation (s : State) :
    (sumParties fun i => reservation s (Party.ofNum i)) = (s.link 0).reserved.length + (s.link 1).reserved.length := by
  simp [sumParties, reservation, Party.ofNum]

/-- R23: where the charges are exact, the six usages sum to the cells of all records and both reserved lists. -/
theorem UsageExact.sumParties_usage {s : State} (h : UsageExact s) :
    sumParties (vget s.usage) =
      (recordCells s).length + ((s.link 0).reserved.length + (s.link 1).reserved.length) := by
  have each (i : Fin 6) : vget s.usage i =
      ((List.finRange 128).map (cellsCharged s (Party.ofNum i))).sum + reservation s (Party.ofNum i) := by
    simpa only [State.used, Party.num_ofNum] using h (Party.ofNum i)
  rw [← sumParties_charges, ← sumParties_reservation]
  simp only [sumParties_eq_sum, ← Finset.sum_add_distrib, each]

/-- R1: the cells of the four places are 512. -/
theorem CellsConserved.length_places {s : State} (h : CellsConserved s) :
    s.free.length + ((recordCells s).length + ((s.link 0).reserved.length + (s.link 1).reserved.length)) = 512 := by
  simpa [allCells] using h.length_eq

/-- R25: the free cells are 512 less the six usages. -/
theorem free_length_add_usage {s : State} (hc : CellsConserved s) (hu : UsageExact s) :
    s.free.length + sumParties (vget s.usage) = 512 := by
  rw [hu.sumParties_usage, hc.length_places]

/-! ### Headroom -/

/-- R27: a claim of at least one cell passes both parts of the admission test exactly up to the headroom. That the shared
usage is within the shared capacity is what admits a claim within the guarantee. -/
theorem AccountLaws.grants_iff {s : State} (h : AccountLaws s) (p : Party) {n : Nat} (hn : 1 ≤ n) :
    s.grants p n = true ↔ n ≤ s.headroom p := by
  obtain ⟨-, hsum, hshared⟩ := h
  rw [State.sharedCapacity] at hshared
  have limitPart : s.used p + n ≤ s.lim p ↔ n ≤ s.lim p - s.used p := by omega
  have sharedPart : s.sharedUsage + s.claimRise p n + s.sumGuarantee ≤ Config.cellCount ↔
      n ≤ (s.guar p - s.used p) + (s.sharedCapacity - s.sharedUsage) := by
    rw [State.claimRise, State.sharedCapacity]
    omega
  rw [State.grants, State.headroom, Bool.and_eq_true, decide_eq_true_iff, decide_eq_true_iff, limitPart, sharedPart,
    le_min_iff]

/-- R27: the headroom is at most the pool, as the limit is. -/
theorem AccountLaws.headroom_le {s : State} (h : AccountLaws s) (p : Party) : s.headroom p ≤ 512 := by
  obtain ⟨hlim, -, -⟩ := h
  calc s.headroom p ≤ s.lim p - s.used p := min_le_left _ _
    _ ≤ s.lim p := Nat.sub_le _ _
    _ ≤ 512 := (hlim p).2

/-- The headroom of one source and the six usages fit in the pool: what the source has not used of its guarantee is part of
what all have not used of theirs. -/
theorem AccountLaws.headroom_add_usage_le {s : State} (h : AccountLaws s) (p : Party) :
    s.headroom p + sumParties (vget s.usage) ≤ 512 := by
  obtain ⟨-, hsum, hshared⟩ := h
  rw [State.sharedCapacity] at hshared
  have hhead : s.headroom p ≤ (s.guar p - s.used p) + (512 - s.sumGuarantee - s.sharedUsage) := min_le_right _ _
  have hunused : s.guar p - s.used p ≤ sumParties fun i => vget s.guarantee i - vget s.usage i :=
    le_sumParties (fun i => vget s.guarantee i - vget s.usage i) p.num
  have hsides : (sumParties (vget s.usage) + sumParties fun i => vget s.guarantee i - vget s.usage i) =
      s.sumGuarantee + s.sharedUsage := sumParties_add_unused _ _
  have hcount : Config.cellCount = 512 := rfl
  omega

/-- R27: where the charges are exact, the headroom never exceeds the free cell count. -/
theorem AccountLaws.headroom_le_free {s : State} (h : AccountLaws s) (hc : CellsConserved s) (hu : UsageExact s)
    (p : Party) : s.headroom p ≤ s.free.length := by
  have hpool := h.headroom_add_usage_le p
  have hfree := free_length_add_usage hc hu
  omega

/-- Settles O51: the headroom is the two-part admission test solved for the claim, and the free cells are what the six
usages leave of the pool. -/
theorem headroomGrants : Obligations.HeadroomGrants := by
  intro p n s h hn
  exact ⟨rfl, h.grants_iff p hn, h.headroom_le p, fun hc hu => h.headroom_le_free hc hu p⟩

end Sys2Proof.Safety
end

section
/-! SUPPORT. A lookup (3.2): the entry that the match finds in the routing table, the output chosen from it, and the hop
rule. -/

namespace Sys2Proof

/-- The entries of a vector are what its places hold. -/
theorem mem_toList_iff_vget {α : Type} {n : Nat} {v : Vector α n} {a : α} : a ∈ v.toList ↔ ∃ i, vget v i = a := by
  simp [vget, Vector.mem_iff_getElem, Fin.exists_iff]

namespace Machine

open Sys2Proof.Safety

/-! ### The match (R45) -/

/-- The match finds nothing exactly when no valid entry holds the address. -/
theorem State.matchRoute_eq_none_iff {s : State} {a : Byte} :
    s.matchRoute a = none ↔ ∀ i, (vget s.routes i).valid = true → (vget s.routes i).address ≠ a := by
  simp only [State.matchRoute, List.find?_eq_none, mem_toList_iff_vget, forall_exists_index, forall_apply_eq_imp_iff,
    Bool.and_eq_true, beq_iff_eq, not_and, ne_eq]

/-- What the match finds is a valid entry of the table that holds the address. -/
theorem State.exists_of_matchRoute_eq_some {s : State} {a : Byte} {e : RouteEntry} (h : s.matchRoute a = some e) :
    ∃ i, vget s.routes i = e ∧ e.valid = true ∧ e.address = a := by
  obtain ⟨i, hi⟩ := mem_toList_iff_vget.mp (List.mem_of_find?_eq_some h)
  rw [State.matchRoute] at h
  have hfound := List.find?_some h
  rw [Bool.and_eq_true, beq_iff_eq] at hfound
  exact ⟨i, hi, hfound⟩

/-- Where no two valid entries hold one address (R42), the match finds the valid entry that holds it, wherever it stands. -/
theorem State.matchRoute_of_valid {s : State} (hu : RoutesUnique s) {a : Byte} {i : Fin 32}
    (hv : (vget s.routes i).valid = true) (ha : (vget s.routes i).address = a) :
    s.matchRoute a = some (vget s.routes i) := by
  cases hm : s.matchRoute a with
  | none => exact absurd ha (State.matchRoute_eq_none_iff.mp hm i hv)
  | some e =>
    obtain ⟨j, rfl, hjv, hja⟩ := State.exists_of_matchRoute_eq_some hm
    rw [hu i j hv hjv (ha.trans hja.symm)]

/-! ### The output (R46) -/

section
variable {s : State} {e : RouteEntry}

theorem State.chooseOutput_host {k : PortId} (hp : e.primary = .host k) : s.chooseOutput e = .host k := by
  simp [State.chooseOutput, hp]

theorem State.chooseOutput_link_alone {x : LinkId} (hp : e.primary = .link x) (ha : e.alternate = none) :
    s.chooseOutput e = .link x := by
  simp [State.chooseOutput, hp, ha]

theorem State.chooseOutput_link_alternate {x : LinkId} {d : Party} (hp : e.primary = .link x)
    (ha : e.alternate = some d) : s.chooseOutput e = if (s.link x).state = .active then .link x else d := by
  simp [State.chooseOutput, hp, ha]

end

/-! ### The lookup -/

/-- No match ends the lookup, whatever the hop limit (R45). -/
theorem State.lookup_of_no_match {s : State} {a : Byte} (hm : s.matchRoute a = none) (hops : BitVec 4) :
    s.lookup a hops = .noRoute := by
  simp [State.lookup, hm]

/-- A host output is the answer at every hop limit (R47). -/
theorem State.lookup_of_host {s : State} {a : Byte} {e : RouteEntry} {k : PortId} (hm : s.matchRoute a = some e)
    (ho : s.chooseOutput e = .host k) (hops : BitVec 4) : s.lookup a hops = .output (.host k) := by
  simp [State.lookup, hm, ho]

/-- A link output is the answer where the hop limit is not 0 (R47). -/
theorem State.lookup_of_link {s : State} {a : Byte} {e : RouteEntry} {x : LinkId} (hm : s.matchRoute a = some e)
    (ho : s.chooseOutput e = .link x) (hops : BitVec 4) :
    s.lookup a hops = if hops = 0 then .hops else .output (.link x) := by
  simp [State.lookup, hm, ho]

/-- Settles O22: the match finds the one valid entry with the address, its output is read off by the kind of its primary
and the presence of its alternate, and the hop rule applies by the kind of that output. -/
theorem lookupOutcome : Obligations.LookupOutcome := by
  intro a hops s hu
  refine ⟨fun h => State.lookup_of_no_match (State.matchRoute_eq_none_iff.mpr h) hops, fun i hv ha => ?_⟩
  have hm := State.matchRoute_of_valid hu hv ha
  intro e out
  have hout : s.chooseOutput e = out := by
    cases hp : e.primary with
    | host k => simp only [out, hp, State.chooseOutput_host hp]
    | link x =>
      cases hd : e.alternate with
      | none => simp only [out, hp, hd, State.chooseOutput_link_alone hp hd]
      | some d => simp only [out, hp, hd, State.chooseOutput_link_alternate hp hd]
  clear_value out
  cases out with
  | host k => exact State.lookup_of_host hm hout hops
  | link x => exact State.lookup_of_link hm hout hops

end Machine

end Sys2Proof
end

section
/-! SUPPORT. The moves of the exchange: the smallest changes of the state that keep it sound, one after another. Every step
is a chain of them (the layer after this one), so an invariant is kept by every step once every move keeps it. -/

namespace Sys2Proof.Safety

open Sys2Proof.Machine

/-! ### What one port keeps -/

/-- The part of `PortsSound` that speaks of port `k`, when it holds `p`. -/
structure PortSound (s : State) (k : PortId) (p : Port) : Prop where
  laws : PortLaws p
  unfenced : s.manager = some k → p.fenced = false
  uqLoan : ∀ l, p.loan = some l → l.queue = .uq → s.manager = some k
  snapshot :
    ∀ sn, p.snapshot = some sn →
      kindsIn sn.host p.hostSet ∧ kindsIn sn.hostLate sn.host ∧
        ∀ part late, sn.mgr = some (part, late) → s.manager = some k ∧ kindsIn part s.mgrSet ∧ kindsIn late part

/-- The ports are sound exactly if each is, and a vacant role's mask is empty. -/
theorem portsSound_iff {s : State} :
    PortsSound s ↔ (∀ k, PortSound s k (s.port k)) ∧ (s.manager = none → s.mgrMask = 0) := by
  constructor
  · rintro ⟨hp, ⟨hu, hv, hl⟩, hs⟩
    exact ⟨fun k => ⟨hp k, hu k, hl k, hs k⟩, hv⟩
  · rintro ⟨hp, hv⟩
    exact ⟨fun k => (hp k).laws, ⟨fun k => (hp k).unfenced, hv, fun k => (hp k).uqLoan⟩, fun k => (hp k).snapshot⟩

/-! ### The moves -/

/-- The record that a commit makes of the assembling record `n`, in the queue of its target (R12, R67). -/
def committed (s : State) (n : RecId) (r : Record) : State :=
  (((s.setSlot r.origin none).setRecord n (some { r with state := .queued })).releasePlace r.target).enqueue n r.target

/-- A record in its place in a POST's slot, with its cells and its charge (R101). -/
def posted (s : State) (k : PortId) (h : PostHeader) (q : QueueId) (n : Nat) (m : RecId) : State :=
  ((((s.setFree (s.free.drop n)).setUsed (.host k) (s.used (.host k) + n)).reservePlace (.queue q)).setRecord m
    (some (s.postRecord k h q n))).setSlot (.host k) (some m)

/-- A record in its place in a link's slot, with no cell yet (R174). -/
def framed (s : State) (x : LinkId) (hdr : List Byte) (n : RecId) : State :=
  let t := s.linkTarget (hdr.getD 0 0) (hdr.getD 2 0)
  ((s.reservePlace t.1).setRecord n (some (linkRecord x hdr t))).setSlot (.link x) (some n)

/-- A cell from the front of the free list on a link's reserved list (R30). -/
def reservedOne (s : State) (x : LinkId) (c : CellId) (rest : List CellId) : State :=
  ((s.setFree rest).setLink x
      { s.link x with
        reserved := (s.link x).reserved ++ [c], pendingGrants := (s.link x).pendingGrants + 1 }).setUsed
    (.link x) (s.used (.link x) + 1)

/-- The sending record of a link back in its class, with its resends as given (R16, R17). -/
def requeued (s : State) (x : LinkId) (n : RecId) (r : Record) (resends : Nat) (due : Bool) : State :=
  (s.setRecord n (some { r with state := .queued, resends := resends })).setLink x
    { s.link x with sending := none, abmDue := due }

/-- The sending record of a link moved to the UQ (R16). -/
def undelivered (s : State) (x : LinkId) (n : RecId) (r : Record) : State :=
  (((s.setLink x { s.link x with sending := none }).unqueue n r.target).setRecord n
    (some { r with target := .uq, reason := some .resends, state := .queued })).enqueue n .uq

/-- One change of the state that keeps the exchange sound. `G` is what is known of the state the step starts from: a
premise below `G` holds only where the references were sound then. `P` is the party whose slot and transaction, or slot
and message, the step handles: their agreement (`SlotsOwned`) is open within the step. -/
inductive Move (G : Prop) (P : Option Party) (s : State) : State → Prop
  | marks (ties : Nat) (owed : List LinkId) (ahead : Option QueueId) (pending : List Instr) :
      Move G P s { s with ties := ties, owed := owed, ahead := ahead, pending := pending }
  | ports (ps : Vector Port 4) (loan : ∀ k, (vget ps k).loan = (s.port k).loan)
      (phase :
        ∀ k, P = some (.host k) ∨
          (PortLaws (s.port k) → ((vget ps k).phase = .filling ↔ (s.port k).phase = .filling)))
      (sound : ∀ k, PortSound s k (s.port k) → PortSound s k (vget ps k)) :
      Move G P s { s with ports := ps }
  | link (x : LinkId) (l : Link) (reserved : l.reserved = (s.link x).reserved)
      (sending :
        l.sending.map (·.recId) = (s.link x).sending.map (·.recId) ∨
          l.sending = none ∧ ∀ sd, (s.link x).sending = some sd → s.record sd.recId = none)
      (laws : LinkLaws (s.link x) → LinkLaws l) (ctrl : CtrlLegal (s.link x).ctrl → CtrlLegal l.ctrl)
      (header : P = some (.link x) ∨ l.headerDone = (s.link x).headerDone)
      (abm : G → ((s.link x).abmDue = true → (s.link x).sending = none) → l.abmDue = true → l.sending = none) :
      Move G P s (s.setLink x l)
  | raiseMgr (e : MgrEvent) : Move G P s (s.raiseMgr e)
  | reserve (x : LinkId) (c : CellId) (rest : List CellId) (free : s.free = c :: rest)
      (can : s.canReserve x = true) : Move G P s (reservedOne s x c rest)
  | returnAll (x : LinkId) : Move G P s (s.returnAll x)
  | discard (n : RecId)
      (place : G → ∀ r, s.record n = some r → r.state = .assembling → P = some r.origin) :
      Move G P s (s.discardOne n)
  | store (n : RecId) (r : Record) (b : Byte) (record : s.record n = some r) (short : r.filled < r.length)
      (open' : G → r.state = .assembling ∧ ∀ x, r.origin = .link x → r.filled % Config.cellBytes ≠ 0) :
      Move G P s (s.storePayload n b)
  | take (x : LinkId) (n : RecId) (r : Record) (c : CellId) (rest : List CellId) (b : Byte)
      (reserved : (s.link x).reserved = c :: rest) (record : s.record n = some r) (short : r.filled < r.length)
      (opens : r.filled % Config.cellBytes = 0) (slot : G → s.slot (.link x) = some n) :
      Move G P s ((s.takeOne x n r c rest).storePayload n b)
  | commit (n : RecId) (r : Record) (record : s.record n = some r) (full : r.filled = r.length)
      (slot : G → s.slot r.origin = some n ∧ P = some r.origin) (target : G → r.target ≠ .drop) :
      Move G P s (committed s n r)
  | choose (x : LinkId) (n : RecId) (active : (s.link x).state = .active) (free : (s.link x).sending = none)
      (abm : (s.link x).abmDue = false)
      (head : ∃ c, (s.qclass { dest := .link x, cls := c }).recs.head? = some n) :
      Move G P s
        ((s.setRecState n .sending).setLink x
          { s.link x with sending := some { recId := n, progress := .header 1 } })
  | lend (k : PortId) (n : RecId) (q : LoanQueue) (free : (s.port k).loan = none)
      (head : (queueOf s (loanTarget k { recId := n, queue := q })).head? = some n)
      (role : q = .uq → s.manager = some k) : Move G P s (s.lend k n q)
  | clearLoan (k : PortId) : Move G P s (s.clearLoan k)
  | requeue (x : LinkId) (sd : Sending) (r : Record) (resends : Nat) (due : Bool)
      (sending : (s.link x).sending = some sd) (record : s.record sd.recId = some r)
      (count : resends = r.resends ∨ resends = r.resends + 1 ∧ r.resends < (s.link x).ctrl.resendLimit) :
      Move G P s (requeued s x sd.recId r resends due)
  | undeliver (x : LinkId) (sd : Sending) (r : Record) (sending : (s.link x).sending = some sd)
      (record : s.record sd.recId = some r) (room : s.uq.occupancy < Config.uqCapacity) :
      Move G P s (undelivered s x sd.recId r)
  | post (k : PortId) (h : PostHeader) (q : QueueId) (n : Nat) (m : RecId) (record : s.record m = none)
      (judged : s.judgePost k h = .taken q n) (slot : G → s.slot (.host k) = none) (party : P = some (.host k)) :
      Move G P s (posted s k h q n m)
  | frame (x : LinkId) (hdr : List Byte) (n : RecId) (record : s.record n = none)
      (length :
        1 ≤ twoBytes (hdr.getD 4 0) (hdr.getD 5 0) ∧ twoBytes (hdr.getD 4 0) (hdr.getD 5 0) ≤ Config.maxLength)
      (slot : G → s.slot (.link x) = none) (party : P = some (.link x)) : Move G P s (framed s x hdr n)
  | items (routes : Vector RouteEntry 32) (runLimit runCount : Vector Nat 6) (postTimeout lowMark : Nat)
      (legal :
        ItemsLegal s →
          ItemsLegal
            { s with
              routes := routes, runLimit := runLimit, runCount := runCount, postTimeout := postTimeout
              lowMark := lowMark }) :
      Move G P s
        { s with
          routes := routes, runLimit := runLimit, runCount := runCount, postTimeout := postTimeout, lowMark := lowMark }
  | accounts (guarantee limit : Vector Nat 6)
      (laws : AccountLaws s → AccountLaws { s with guarantee := guarantee, limit := limit }) :
      Move G P s { s with guarantee := guarantee, limit := limit }
  | depth (q : QueueId) (d : Nat) (range : 1 ≤ d ∧ d ≤ 16) (room : (s.qclass q).occupancy ≤ d)
      (budget : s.sumDepthWith q d ≤ Config.depthBudget) :
      Move G P s (s.setClass q { s.qclass q with depth := d })
  | manager (o : Option PortId) (mask : Byte) (sound : PortsSound s → PortsSound (s.setManager o mask)) :
      Move G P s (s.setManager o mask)
  | closeEvents (k : PortId) (p : Port) (b : Byte) (loan : p.loan = (s.port k).loan)
      (phase : PortLaws (s.port k) → (p.phase = .filling ↔ (s.port k).phase = .filling))
      (sound : PortsSound s → PortsSound { s.setPort k p with mgrSet := b }) :
      Move G P s { s.setPort k p with mgrSet := b }
  | restart (k : PortId) (tx : (s.port k).tx = .running .restart) : Move G P s (s.restartAll k)
  | reset (t : State) (h : execPowerOnReset s = .next t) : Move G P s t

/-- A chain of moves. -/
abbrev Moves (G : Prop) (P : Option Party) : State → State → Prop := Relation.ReflTransGen (Move G P)

end Sys2Proof.Safety
end

section
/-! SUPPORT. What the operations on queues, slots and records leave: one lemma per operation and accessor, in the terms of
the invariants (`queueOf`, `reservedFor`). -/

namespace Sys2Proof.Safety

open Sys2Proof.Machine

variable (s : State)

/-! ### Queues and places -/

section
variable (n : RecId) (t u : Target)

@[simp] theorem queueOf_setSlot (p : Party) (o : Option RecId) : queueOf (s.setSlot p o) u = queueOf s u := by
  cases u <;> rfl
@[simp] theorem queueOf_setRecord (r : Option Record) : queueOf (s.setRecord n r) u = queueOf s u := by cases u <;> rfl
@[simp] theorem queueOf_setPort (k : PortId) (p : Port) : queueOf (s.setPort k p) u = queueOf s u := by cases u <;> rfl
@[simp] theorem queueOf_setLink (x : LinkId) (l : Link) : queueOf (s.setLink x l) u = queueOf s u := by cases u <;> rfl
@[simp] theorem queueOf_setUsed (p : Party) (i : Nat) : queueOf (s.setUsed p i) u = queueOf s u := by cases u <;> rfl
@[simp] theorem queueOf_setFree (l : List CellId) : queueOf (s.setFree l) u = queueOf s u := by cases u <;> rfl
@[simp] theorem queueOf_setMem (m : Memory) : queueOf (s.setMem m) u = queueOf s u := by cases u <;> rfl
@[simp] theorem reservedFor_setSlot (p : Party) (o : Option RecId) :
    reservedFor (s.setSlot p o) u = reservedFor s u := by cases u <;> rfl
@[simp] theorem reservedFor_setRecord (r : Option Record) : reservedFor (s.setRecord n r) u = reservedFor s u := by
  cases u <;> rfl
@[simp] theorem reservedFor_setPort (k : PortId) (p : Port) : reservedFor (s.setPort k p) u = reservedFor s u := by
  cases u <;> rfl
@[simp] theorem reservedFor_setLink (x : LinkId) (l : Link) : reservedFor (s.setLink x l) u = reservedFor s u := by
  cases u <;> rfl
@[simp] theorem reservedFor_setUsed (p : Party) (i : Nat) : reservedFor (s.setUsed p i) u = reservedFor s u := by
  cases u <;> rfl
@[simp] theorem reservedFor_setFree (l : List CellId) : reservedFor (s.setFree l) u = reservedFor s u := by
  cases u <;> rfl
@[simp] theorem reservedFor_setMem (m : Memory) : reservedFor (s.setMem m) u = reservedFor s u := by cases u <;> rfl

/-- Reserving a place takes no record into a queue (R61). -/
@[simp] theorem queueOf_reservePlace : queueOf (s.reservePlace t) u = queueOf s u := by
  cases t <;> cases u <;> simp only [State.reservePlace, queueOf, State.setClass_qclass, State.setClass_uq,
    State.setUq_uq, State.setUq_qclass]
  split
  · rename_i e; rw [e]
  · rfl

/-- Reserving a place raises the places of its target by one (R61). -/
theorem reservedFor_reservePlace (ht : t ≠ .drop) :
    reservedFor (s.reservePlace t) u = if t = u then reservedFor s u + 1 else reservedFor s u := by
  cases t with
  | queue q =>
    cases u <;> simp [State.reservePlace, reservedFor]
    split
    · rename_i e; simp [e]
    · rfl
  | uq => cases u <;> simp [State.reservePlace, reservedFor]
  | drop => exact absurd rfl ht

/-- Releasing a place takes no record out of a queue (R68). -/
@[simp] theorem queueOf_releasePlace : queueOf (s.releasePlace t) u = queueOf s u := by
  cases t <;> cases u <;> simp only [State.releasePlace, queueOf, State.setClass_qclass, State.setClass_uq,
    State.setUq_uq, State.setUq_qclass]
  split
  · rename_i e; rw [e]
  · rfl

/-- Releasing a place lowers the places of its target by one (R68). -/
@[simp] theorem reservedFor_releasePlace :
    reservedFor (s.releasePlace t) u = if t = u then reservedFor s u - 1 else reservedFor s u := by
  cases t <;> cases u <;> simp [State.releasePlace, reservedFor]
  split
  · rename_i e; simp [e]
  · rfl

/-- Taking a record out of its queue (R72). -/
@[simp] theorem queueOf_unqueue :
    queueOf (s.unqueue n t) u = if t = u then (queueOf s u).erase n else queueOf s u := by
  cases t <;> cases u <;> simp [State.unqueue, queueOf]
  split
  · rename_i e; simp [e]
  · rfl

@[simp] theorem reservedFor_unqueue : reservedFor (s.unqueue n t) u = reservedFor s u := by
  cases t <;> cases u <;> simp only [State.unqueue, reservedFor, State.setClass_qclass, State.setClass_uq,
    State.setUq_uq, State.setUq_qclass]
  split
  · rename_i e; rw [e]
  · rfl

/-- Appending a record to a queue (R67). -/
theorem queueOf_enqueue (ht : t ≠ .drop) :
    queueOf (s.enqueue n t) u = if t = u then queueOf s u ++ [n] else queueOf s u := by
  cases t with
  | queue q =>
    cases u <;> simp [State.enqueue, queueOf]
    split
    · rename_i e; simp [e]
    · rfl
  | uq => cases u <;> simp [State.enqueue, queueOf]
  | drop => exact absurd rfl ht

@[simp] theorem reservedFor_enqueue : reservedFor (s.enqueue n t) u = reservedFor s u := by
  cases t <;> cases u <;> simp only [State.enqueue, reservedFor, State.setClass_qclass, State.setClass_uq,
    State.setUq_uq, State.setUq_qclass]
  split
  · rename_i e; rw [e]
  · rfl

/-- No operation on places and queues changes a depth limit. -/
theorem depth_places (q : QueueId) :
    ((s.reservePlace t).qclass q).depth = (s.qclass q).depth ∧ ((s.releasePlace t).qclass q).depth = (s.qclass q).depth ∧
      ((s.unqueue n t).qclass q).depth = (s.qclass q).depth ∧
      ((s.enqueue n t).qclass q).depth = (s.qclass q).depth := by
  cases t with
  | queue p =>
    by_cases e : p = q <;>
      simp [State.reservePlace, State.releasePlace, State.unqueue, State.enqueue, e]
  | uq => exact ⟨rfl, rfl, rfl, rfl⟩
  | drop => exact ⟨rfl, rfl, rfl, rfl⟩

@[simp] theorem depth_reservePlace (q : QueueId) : ((s.reservePlace t).qclass q).depth = (s.qclass q).depth :=
  (depth_places s 0 t q).1
@[simp] theorem depth_releasePlace (q : QueueId) : ((s.releasePlace t).qclass q).depth = (s.qclass q).depth :=
  (depth_places s 0 t q).2.1
@[simp] theorem depth_unqueue (q : QueueId) : ((s.unqueue n t).qclass q).depth = (s.qclass q).depth :=
  (depth_places s n t q).2.2.1
@[simp] theorem depth_enqueue (q : QueueId) : ((s.enqueue n t).qclass q).depth = (s.qclass q).depth :=
  (depth_places s n t q).2.2.2

end

/-! ### The discard of a record -/

section
variable {s : State} {n : RecId} {r : Record} (h : s.record n = some r)
include h

theorem discardOne_free : (s.discardOne n).free = s.free ++ r.cells := by rw [State.discardOne_spec h]

theorem discardOne_slot (p : Party) :
    (s.discardOne n).slot p = if r.state = .assembling ∧ p = r.origin then none else s.slot p := by
  have e : (s.discardOne n).slot p = (s.outOfPlace n r).slot p := by rw [State.discardOne_spec h]; rfl
  rw [e]
  unfold State.outOfPlace
  split
  · rename_i hs
    rw [State.releasePlace_rest]
    simp only [hs, true_and]
    exact (State.setSlot_slot s r.origin none p).trans (if_congr eq_comm rfl rfl)
  · rename_i hs
    rw [State.unqueue_rest, if_neg fun c => hs c.1]
    rfl

theorem discardOne_queueOf (t : Target) :
    queueOf (s.discardOne n) t =
      if r.state ≠ .assembling ∧ r.target = t then (queueOf s t).erase n else queueOf s t := by
  have e : queueOf (s.discardOne n) t = queueOf (s.outOfPlace n r) t := by
    rw [State.discardOne_spec h]; cases t <;> rfl
  rw [e]
  unfold State.outOfPlace
  split
  · rename_i hs; simp [hs]
  · rename_i hs
    rw [queueOf_unqueue]
    simp [show r.state ≠ .assembling from hs]

theorem discardOne_reservedFor (t : Target) :
    reservedFor (s.discardOne n) t =
      if r.state = .assembling ∧ r.target = t then reservedFor s t - 1 else reservedFor s t := by
  have e : reservedFor (s.discardOne n) t = reservedFor (s.outOfPlace n r) t := by
    rw [State.discardOne_spec h]; cases t <;> rfl
  rw [e]
  unfold State.outOfPlace
  split
  · rename_i hs; simp [hs]
  · rename_i hs
    rw [reservedFor_unqueue]
    simp [show r.state ≠ .assembling from hs]

theorem discardOne_depth (q : QueueId) : ((s.discardOne n).qclass q).depth = (s.qclass q).depth := by
  have e : (s.discardOne n).qclass q = (s.outOfPlace n r).qclass q := by rw [State.discardOne_spec h]; rfl
  rw [e]
  unfold State.outOfPlace
  split
  · exact depth_releasePlace _ _ _
  · exact depth_unqueue _ _ _ _

theorem discardOne_used (p : Party) :
    (s.discardOne n).used p = if r.origin = p then s.used p - r.cells.length else s.used p := by
  rw [State.discardOne_spec h]
  refine (State.setUsed_used s r.origin _ p).trans ?_
  split
  · rename_i e; rw [e]
  · rfl

end

/-- A port after the discard of record `n`. -/
theorem discardOne_port (n : RecId) (k : PortId) (h : s.record n ≠ none) :
    (s.discardOne n).port k = (s.port k).dropLoanOf n := by
  obtain ⟨r, hr⟩ := Option.ne_none_iff_exists'.mp h
  rw [State.discardOne_spec hr]
  exact vget_map _ _ _

/-- A link after the discard of record `n`. -/
theorem discardOne_link (n : RecId) (x : LinkId) (h : s.record n ≠ none) :
    (s.discardOne n).link x = (s.link x).dropSendingOf n := by
  obtain ⟨r, hr⟩ := Option.ne_none_iff_exists'.mp h
  rw [State.discardOne_spec hr]
  exact vget_map _ _ _

/-! ### The moves on records -/

section
variable {n : RecId} {r : Record} {x : LinkId}

theorem committed_rest :
    committed s n r =
      { s with
        slots := vset s.slots r.origin.num none, records := vset s.records n (some { r with state := .queued })
        classes := (committed s n r).classes, uq := (committed s n r).uq } := by
  unfold committed
  rw [State.enqueue_rest, State.releasePlace_rest]
  rfl

theorem undelivered_rest :
    undelivered s x n r =
      { s with
        links := vset s.links x { s.link x with sending := none }
        records := vset s.records n (some { r with target := .uq, reason := some .resends, state := .queued })
        classes := (undelivered s x n r).classes, uq := (undelivered s x n r).uq } := by
  unfold undelivered
  rw [State.enqueue_rest, State.unqueue_rest]
  rfl

theorem posted_rest (k : PortId) (h : PostHeader) (q : QueueId) (c : Nat) :
    posted s k h q c n =
      { s with
        free := s.free.drop c, usage := vset s.usage (Party.host k).num (s.used (.host k) + c)
        records := vset s.records n (some (s.postRecord k h q c))
        slots := vset s.slots (Party.host k).num (some n), classes := (posted s k h q c n).classes } := rfl

theorem framed_rest (hdr : List Byte) :
    framed s x hdr n =
      { s with
        records :=
          vset s.records n (some (linkRecord x hdr (s.linkTarget (hdr.getD 0 0) (hdr.getD 2 0))))
        slots := vset s.slots (Party.link x).num (some n)
        classes := (framed s x hdr n).classes, uq := (framed s x hdr n).uq } := by
  unfold framed
  simp only
  rw [State.reservePlace_rest]
  rfl

end

/-- A restart leaves the configuration, the role and the bytes of the pool (R22, R41, R77, R146). -/
theorem restartAll_keep (k : PortId) :
    (s.restartAll k).mem = s.mem ∧ (s.restartAll k).guarantee = s.guarantee ∧ (s.restartAll k).limit = s.limit ∧
      (s.restartAll k).routes = s.routes ∧ (s.restartAll k).runLimit = s.runLimit ∧
      (s.restartAll k).lowMark = s.lowMark ∧ (s.restartAll k).postTimeout = s.postTimeout ∧
      (s.restartAll k).manager = s.manager ∧ (s.restartAll k).mgrMask = s.mgrMask := by
  simp [State.restartAll]

/-- A link is LA or LB. -/
theorem link_cases (x : LinkId) : x = 0 ∨ x = 1 := by revert x; decide

end Sys2Proof.Safety
end

section
/-! SUPPORT. Updates at one index: how a sum, a count and the cells of all records change when one record changes. -/

namespace Sys2Proof.Safety

open Sys2Proof.Machine

/-- Two figures that agree at every index but one sum to the same, when their two values there are exchanged. -/
theorem sum_map_add_of_agree {f g : RecId → Nat} {n : RecId} (h : ∀ m, m ≠ n → f m = g m) :
    ((List.finRange 128).map f).sum + g n = ((List.finRange 128).map g).sum + f n := by
  rw [← List.ofFn_eq_map, ← List.ofFn_eq_map, List.sum_ofFn, List.sum_ofFn,
    ← Finset.add_sum_erase _ f (Finset.mem_univ n), ← Finset.add_sum_erase _ g (Finset.mem_univ n),
    Finset.sum_congr rfl fun m hm => h m (Finset.ne_of_mem_erase hm)]
  ring

/-- The number of indices a test picks, as a sum. -/
theorem length_filter_eq_sum (p : RecId → Bool) :
    ((List.finRange 128).filter p).length = ((List.finRange 128).map fun n => if p n then 1 else 0).sum := by
  induction List.finRange 128 with
  | nil => rfl
  | cons a l ih => by_cases h : p a <;> simp [h, ih, Nat.add_comm]

/-- Two tests that agree at every index but one pick equally many, but for that one. -/
theorem length_filter_add_of_agree {p q : RecId → Bool} {n : RecId} (h : ∀ m, m ≠ n → p m = q m) :
    ((List.finRange 128).filter p).length + (if q n then 1 else 0) =
      ((List.finRange 128).filter q).length + if p n then 1 else 0 := by
  rw [length_filter_eq_sum, length_filter_eq_sum]
  exact sum_map_add_of_agree (f := fun m => if p m then 1 else 0) (g := fun m => if q m then 1 else 0)
    fun m hm => by simp only [h m hm]

/-- The cells of record `n`; none when it is free. -/
def cellsAt (s : State) (n : RecId) : List CellId := ((s.record n).map (·.cells)).getD []

theorem count_recordCells (s : State) (a : CellId) :
    (recordCells s).count a = ((List.finRange 128).map fun n => (cellsAt s n).count a).sum := by
  rw [recordCells, List.count_flatMap]
  rfl

/-- How often a cell is on the lists of all records, when one record changes. -/
theorem count_recordCells_of_agree {s t : State} {n : RecId} (h : ∀ m, m ≠ n → t.record m = s.record m) (a : CellId) :
    (recordCells t).count a + (cellsAt s n).count a = (recordCells s).count a + (cellsAt t n).count a := by
  rw [count_recordCells, count_recordCells]
  exact sum_map_add_of_agree (f := fun m => (cellsAt t m).count a) (g := fun m => (cellsAt s m).count a)
    fun m hm => by simp only [cellsAt, h m hm]

/-- The cells of all records depend on the records' cells alone. -/
theorem recordCells_congr {s t : State} (h : ∀ n, cellsAt t n = cellsAt s n) : recordCells t = recordCells s :=
  List.flatMap_congr fun n _ => h n

/-- How often a cell is in the four places. -/
def placesCount (s : State) (a : CellId) : Nat :=
  s.free.count a + (recordCells s).count a + (s.link 0).reserved.count a + (s.link 1).reserved.count a

/-- R1, cell by cell: each is in one place, once. -/
theorem cellsConserved_iff {s : State} : CellsConserved s ↔ ∀ a, placesCount s a = allCells.count a := by
  simp only [CellsConserved, List.perm_iff_count, List.count_append, placesCount]

end Sys2Proof.Safety
end

section
/-! SUPPORT. Every move keeps R1: each cell stays in exactly one place. -/

namespace Sys2Proof.Safety

open Sys2Proof.Machine

/-- What leaves the free list, the records' cells and the reserved lists keeps R1. -/
theorem CellsConserved.congr {s t : State} (h : CellsConserved s) (hf : t.free = s.free)
    (hr : ∀ n, cellsAt t n = cellsAt s n) (hl : ∀ x, (t.link x).reserved = (s.link x).reserved) :
    CellsConserved t := by
  unfold CellsConserved at *
  rwa [hf, recordCells_congr hr, hl, hl]

/-- The change of one record, with what the free list and one reserved list give and take, cell by cell. -/
theorem CellsConserved.ofCounts {s t : State} (h : CellsConserved s) (n : RecId)
    (hr : ∀ m, m ≠ n → t.record m = s.record m)
    (hc :
      ∀ a,
        t.free.count a + (cellsAt t n).count a + (t.link 0).reserved.count a + (t.link 1).reserved.count a =
          s.free.count a + (cellsAt s n).count a + (s.link 0).reserved.count a + (s.link 1).reserved.count a) :
    CellsConserved t := by
  rw [cellsConserved_iff] at h ⊢
  intro a
  have h1 := h a
  have h2 := hc a
  have h3 := count_recordCells_of_agree hr a
  unfold placesCount at *
  omega

/-- A record kept but for other fields has the cells it had. -/
theorem cellsAt_setRecord {s : State} {n : RecId} {r r' : Record} (h : s.record n = some r) (hc : r'.cells = r.cells)
    (m : RecId) : cellsAt (s.setRecord n (some r')) m = cellsAt s m := by
  unfold cellsAt
  rw [State.setRecord_record]
  split
  · rename_i e
    subst e
    simp [h, hc]
  · rfl

theorem cellsAt_congr {s t : State} (h : t.records = s.records) (m : RecId) : cellsAt t m = cellsAt s m := by
  simp only [cellsAt, State.record, h]

theorem State.link_congr {s t : State} (h : t.links = s.links) (x : LinkId) : t.link x = s.link x := by
  simp only [State.link, h]

/-- Storing a payload byte changes neither the cells nor the origin of a record, and no list of cells. -/
theorem CellsConserved.storePayload {s : State} (h : CellsConserved s) (n : RecId) (b : Byte) :
    CellsConserved (s.storePayload n b) := by
  rcases s.storePayload_cases n b with e | ⟨r, a, hr, -, e⟩ <;> rw [e]
  · exact h
  · exact h.congr rfl (cellsAt_setRecord hr (by rfl)) fun _ => rfl

theorem setLink_reserved {s : State} {x : LinkId} {l : Link} (h : l.reserved = (s.link x).reserved) (y : LinkId) :
    ((s.setLink x l).link y).reserved = (s.link y).reserved := by
  rw [State.setLink_link]
  split
  · rename_i e; rw [h, e]
  · rfl

/-- Giving a record another state changes the cells of no record. -/
theorem cellsAt_setRecState (s : State) (n : RecId) (st : RecState) (m : RecId) :
    cellsAt (s.setRecState n st) m = cellsAt s m := by
  unfold State.setRecState
  split
  · rfl
  · rename_i hr; exact cellsAt_setRecord hr (by rfl) m

theorem Move.cellsConserved {G : Prop} {P : Option Party} {s t : State} (hm : Move G P s t) (h : CellsConserved s) :
    CellsConserved t := by
  cases hm with
  | marks | ports | raiseMgr | items | accounts | depth | manager | closeEvents => exact h
  | link x l reserved => exact h.congr rfl (fun _ => rfl) (setLink_reserved reserved)
  | reserve x c rest free =>
    refine h.ofCounts 0 (fun _ _ => rfl) fun a => ?_
    rcases link_cases x with rfl | rfl <;> simp [reservedOne, free, cellsAt, List.count_cons] <;> omega
  | returnAll x =>
    refine h.ofCounts 0 (fun _ _ => rfl) fun a => ?_
    rcases link_cases x with rfl | rfl <;> simp [State.returnAll, cellsAt] <;> omega
  | discard n =>
    cases hr : s.record n with
    | none => rwa [State.discardOne_none hr]
    | some r =>
      refine h.ofCounts n (fun m hm => by rw [State.discardOne_record, if_neg (Ne.symm hm)]) fun a => ?_
      have hl (x : LinkId) : ((s.discardOne n).link x).reserved = (s.link x).reserved := by
        rw [discardOne_link s n x (by simp [hr]), Link.dropSendingOf]
        split <;> rfl
      simp [hl, discardOne_free hr, cellsAt, State.discardOne_record, hr]
  | store n r b => exact h.storePayload n b
  | take x n r c rest b reserved record =>
    refine CellsConserved.storePayload (h.ofCounts n (fun m hm => ?_) fun a => ?_) n b
    · simp [State.takeOne, Ne.symm hm]
    · rcases link_cases x with rfl | rfl <;>
        simp [State.takeOne, cellsAt, reserved, record, List.count_cons] <;> omega
  | commit n r record =>
    rw [committed_rest]
    exact h.congr rfl (cellsAt_setRecord (s := s) record (by rfl)) fun _ => rfl
  | choose x n =>
    refine h.congr ?_ (cellsAt_setRecState s n .sending) fun y => ?_
    · simp [State.setRecState_spec]
    · rw [State.setRecState_spec]
      exact setLink_reserved (s := s) (by rfl) y
  | lend k n q =>
    refine h.congr ?_ (cellsAt_setRecState s n .loaned) fun y => ?_
    · simp [State.lend, State.setRecState_spec]
    · simp [State.lend, State.setRecState_spec]
  | clearLoan k =>
    rcases s.clearLoan_cases k with ⟨-, e⟩ | ⟨l, -, e⟩ <;> rw [e]
    · exact h
    · refine h.congr ?_ (cellsAt_setRecState s l.recId .queued) fun y => ?_ <;> simp [State.setRecState_spec]
  | requeue x sd r resends due sending record =>
    exact h.congr rfl (cellsAt_setRecord record (by rfl)) (setLink_reserved (s := s) (by rfl))
  | undeliver x sd r sending record =>
    rw [undelivered_rest]
    exact h.congr rfl
      (cellsAt_setRecord (s := s) record (by rfl))
      (setLink_reserved (s := s) (by rfl))
  | post k hd q n m record =>
    refine h.ofCounts m (fun i hi => ?_) fun a => ?_
    · simp [posted, Ne.symm hi]
      rfl
    · have hc : cellsAt (posted s k hd q n m) m = s.free.take n := by simp [posted, cellsAt, State.postRecord]
      have hs : cellsAt s m = [] := by simp [cellsAt, record]
      rw [hc, hs, posted_rest]
      have := congrArg (List.count a) (List.take_append_drop n s.free)
      rw [List.count_append] at this
      simp only [List.count_nil, State.link]
      omega
  | frame x hdr n record =>
    rw [framed_rest]
    refine h.congr rfl (fun m => ?_) fun _ => rfl
    refine Eq.trans (b := cellsAt (s.setRecord n (some _)) m) rfl ?_
    rw [cellsAt, cellsAt, State.setRecord_record]
    split
    · rename_i e; rw [← e, record]; rfl
    · rfl
  | restart k =>
    rw [cellsConserved_iff]
    intro a
    simp [placesCount, State.restartAll, State.link, vget_map, Link.restart, count_recordCells, cellsAt, State.record,
      vget_replicate]
  | reset t ht =>
    cases ht
    rw [cellsConserved_iff]
    intro a
    simp [placesCount, State.reset, State.link, vget_replicate, Link.reset, count_recordCells, cellsAt, State.record]

end Sys2Proof.Safety
end

section
/-! SUPPORT. Every move keeps the laws of the accounts (R23, R25), the ranges of the items, and the canonical form of the
pool's bytes. -/

namespace Sys2Proof.Safety

open Sys2Proof.Machine

/-! ### The accounts -/

/-- Two figures that agree at every source but one sum to the same, when their two values there are exchanged. -/
theorem sumParties_add_of_agree {f g : Fin 6 → Nat} {i : Fin 6} (h : ∀ j, j ≠ i → f j = g j) :
    sumParties f + g i = sumParties g + f i := by
  rw [sumParties_eq_sum, sumParties_eq_sum, ← Finset.add_sum_erase _ f (Finset.mem_univ i),
    ← Finset.add_sum_erase _ g (Finset.mem_univ i), Finset.sum_congr rfl fun j hj => h j (Finset.ne_of_mem_erase hj)]
  ring

theorem sumParties_mono {f g : Fin 6 → Nat} (h : ∀ i, f i ≤ g i) : sumParties f ≤ sumParties g := by
  rw [sumParties_eq_sum, sumParties_eq_sum]
  exact Finset.sum_le_sum fun i _ => h i

/-- Usages that do not rise keep the laws (R25). -/
theorem AccountLaws.of_le {s t : State} (h : AccountLaws s) (hg : t.guarantee = s.guarantee) (hl : t.limit = s.limit)
    (hu : ∀ p, t.used p ≤ s.used p) : AccountLaws t := by
  obtain ⟨hlim, hsum, hshared⟩ := h
  simp only [AccountLaws, State.guar, State.lim, State.sumGuarantee, State.sharedCapacity, State.sharedUsage, hg, hl]
    at *
  refine ⟨hlim, hsum, le_trans (sumParties_mono fun i => ?_) hshared⟩
  have := hu (Party.ofNum i)
  simp only [State.used, Party.num_ofNum] at this
  omega

theorem AccountLaws.congr {s t : State} (h : AccountLaws s) (hg : t.guarantee = s.guarantee) (hl : t.limit = s.limit)
    (hu : t.usage = s.usage) : AccountLaws t :=
  h.of_le hg hl fun p => by simp only [State.used, hu, le_refl]

/-- A claim raises the shared usage by its rise (R26). -/
theorem sharedUsage_claim {s t : State} {p : Party} {n : Nat} (hg : t.guarantee = s.guarantee)
    (hu : t.usage = vset s.usage p.num (s.used p + n)) : t.sharedUsage = s.sharedUsage + s.claimRise p n := by
  have h := sumParties_add_of_agree (f := fun i => vget t.usage i - vget t.guarantee i)
    (g := fun i => vget s.usage i - vget s.guarantee i) (i := p.num)
    fun j hj => by simp only [hg, hu, vget_vset, if_neg (Ne.symm hj)]
  simp only [hg, hu, vget_vset, if_pos] at h
  simp only [State.sharedUsage, State.claimRise, State.used, State.guar, hg, hu, vget_vset]
  simp only [State.used] at h
  have := le_sumParties (fun i => vget s.usage i - vget s.guarantee i) p.num
  omega

/-- A claim that is granted keeps the laws (R25, R26). -/
theorem AccountLaws.claim {s t : State} {p : Party} {n : Nat} (h : AccountLaws s) (hgr : s.grants p n = true)
    (hg : t.guarantee = s.guarantee) (hl : t.limit = s.limit) (hu : t.usage = vset s.usage p.num (s.used p + n)) :
    AccountLaws t := by
  have hs := sharedUsage_claim hg hu
  obtain ⟨hlim, hsum, hshared⟩ := h
  simp only [State.grants, Bool.and_eq_true, decide_eq_true_eq] at hgr
  have e : t.sumGuarantee = s.sumGuarantee := by simp only [State.sumGuarantee, hg]
  refine ⟨fun q => ?_, by rw [e]; exact hsum, ?_⟩
  · simpa only [State.guar, State.lim, hg, hl] using hlim q
  · rw [hs, State.sharedCapacity, e]
    omega

/-- A POST judged TAKEN has passed the six checks (R100). -/
theorem judgePost_taken {s : State} {k : PortId} {h : PostHeader} {q : QueueId} {n : Nat}
    (hj : s.judgePost k h = .taken q n) :
    (s.port k).fenced = false ∧ 1 ≤ h.length ∧ h.length ≤ Config.maxLength ∧ q.cls = controlClass h.control ∧
      s.lookup h.dst (controlHops h.control) = .output q.dest ∧ (s.qclass q).occupancy < (s.qclass q).depth ∧
      n = cellsOf h.length ∧ s.grants (.host k) n = true := by
  unfold State.judgePost at hj
  by_cases hf : (s.port k).fenced = true
  · simp [hf] at hj
  by_cases hl : h.length = 0 ∨ Config.maxLength < h.length
  · simp [hf, hl] at hj
  rw [if_neg hf, if_neg hl] at hj
  cases hd : s.lookup h.dst (controlHops h.control) with
  | noRoute => simp [hd] at hj
  | hops => simp [hd] at hj
  | output d =>
    simp only [hd] at hj
    split at hj
    · split at hj
      · cases hj
        exact ⟨by simpa using hf, by omega, by omega, rfl, rfl, by assumption, rfl, by assumption⟩
      · cases hj
    · cases hj

/-- The laws of the accounts after power-on reset (R40). -/
theorem reset_accountLaws : AccountLaws State.reset := by
  refine ⟨fun p => ?_, by decide, by decide⟩
  simp [State.guar, State.lim, State.reset, vget_replicate, Config.cellCount]

theorem Move.accountLaws {G : Prop} {P : Option Party} {s t : State} (hm : Move G P s t) (h : AccountLaws s) :
    AccountLaws t := by
  cases hm with
  | marks | ports | raiseMgr | items | depth | manager | closeEvents | link => exact h
  | accounts g l laws => exact laws h
  | reserve x c rest free can => exact h.claim (State.canReserve_spec can).2.2 rfl rfl rfl
  | returnAll x =>
    refine h.of_le rfl rfl fun p => ?_
    simp only [State.returnAll, State.setLink_used, State.setUsed_used, State.setFree_used]
    split
    · rename_i e; rw [e]; exact Nat.sub_le _ _
    · exact le_refl _
  | discard n =>
    obtain ⟨-, hg, hl, -⟩ := s.discardOne_keep n
    refine h.of_le hg hl fun p => ?_
    cases hr : s.record n with
    | none => rw [State.discardOne_none hr]
    | some r =>
      rw [discardOne_used hr]
      split
      · exact Nat.sub_le _ _
      · exact le_refl _
  | store n r b =>
    rcases s.storePayload_cases n b with e | ⟨r, a, -, -, e⟩ <;> rw [e] <;> exact h
  | take x n r c rest b =>
    rcases (s.takeOne x n r c rest).storePayload_cases n b with e | ⟨r, a, -, -, e⟩ <;> rw [e] <;> exact h
  | commit n r => rw [committed_rest]; exact h
  | choose x n => rw [State.setRecState_spec]; exact h
  | lend k n q => rw [State.lend, State.setRecState_spec]; exact h
  | clearLoan k =>
    rcases s.clearLoan_cases k with ⟨-, e⟩ | ⟨l, -, e⟩ <;> rw [e]
    · exact h
    · rw [State.setRecState_spec]; exact h
  | requeue => exact h.congr rfl rfl rfl
  | undeliver x sd r => rw [undelivered_rest]; exact h
  | post k hd q n m record judged =>
    obtain ⟨-, -, -, -, -, -, -, hgr⟩ := judgePost_taken judged
    exact h.claim hgr rfl rfl rfl
  | frame x hdr n => rw [framed_rest]; exact h
  | restart k =>
    obtain ⟨-, hg, hl, -⟩ := restartAll_keep s k
    refine h.of_le hg hl fun p => ?_
    simp [State.restartAll, State.used, vget_replicate]
  | reset t ht =>
    cases ht
    exact reset_accountLaws.congr rfl rfl rfl

/-! ### The items -/

/-- The depth limits of two states are the same, class by class. -/
def SameDepths (s t : State) : Prop := ∀ q, (t.qclass q).depth = (s.qclass q).depth

theorem SameDepths.vget {s t : State} (h : SameDepths s t) (i : Fin 12) :
    (vget t.classes i).depth = (vget s.classes i).depth := by
  have := h (QueueId.ofNum i)
  simpa only [State.qclass, QueueId.num_ofNum] using this

theorem SameDepths.legal {s t : State} (h : SameDepths s t) (hd : DepthsLegal s) : DepthsLegal t := by
  obtain ⟨h1, h2⟩ := hd
  refine ⟨fun q => by rw [h q]; exact h1 q, ?_⟩
  simpa only [sumDepth, h.vget] using h2

theorem ItemsLegal.congr {s t : State} (h : ItemsLegal s) (hd : SameDepths s t) (hr : t.routes = s.routes)
    (hl : t.runLimit = s.runLimit) (hc : t.runCount = s.runCount) (hx : ∀ x, (t.link x).ctrl = (s.link x).ctrl)
    (hm : t.lowMark = s.lowMark) (hp : t.postTimeout = s.postTimeout) : ItemsLegal t where
  routes := by simpa only [RoutesUnique, hr] using h.routes
  depths := hd.legal h.depths
  runLimits := by simpa only [hl] using h.runLimits
  runCounts := by simpa only [hc] using h.runCounts
  ctrls x := by rw [hx]; exact h.ctrls x
  lowMark := by rw [hm]; exact h.lowMark
  postTimeout := by rw [hp]; exact h.postTimeout

theorem setLink_ctrl {s : State} {x : LinkId} {l : Link} (h : l.ctrl = (s.link x).ctrl) (y : LinkId) :
    ((s.setLink x l).link y).ctrl = (s.link y).ctrl := by
  rw [State.setLink_link]
  split
  · rename_i e; rw [h, e]
  · rfl

/-- A depth limit written within the range and the budget is legal (R62, R63). -/
theorem DepthsLegal.setDepth {s : State} (h : DepthsLegal s) {q : QueueId} {d : Nat} (hd : 1 ≤ d ∧ d ≤ 16)
    (hb : s.sumDepthWith q d ≤ Config.depthBudget) : DepthsLegal (s.setClass q { s.qclass q with depth := d }) := by
  refine ⟨fun p => ?_, le_trans (le_of_eq ?_) hb⟩
  · rw [State.setClass_qclass]
    split
    · exact hd
    · exact h.1 p
  · unfold sumDepth State.sumDepthWith
    congr 2
    funext i
    rw [State.setClass, vget_vset]
    by_cases e : q.num = i
    · rw [if_pos e, if_pos e.symm]
    · rw [if_neg e, if_neg (Ne.symm e)]

/-- The items after power-on reset are legal (R43, R58, R76). -/
theorem reset_itemsLegal : ItemsLegal State.reset where
  routes := by unfold RoutesUnique; decide +kernel
  depths := by
    refine ⟨fun q => ?_, by decide⟩
    simp [State.qclass, State.reset, vget_replicate]
  runLimits i := by simp [State.reset, vget_replicate]
  runCounts i := by simp [State.reset, vget_replicate]
  ctrls x := by simp [State.link, State.reset, vget_replicate, CtrlLegal, Link.reset]
  lowMark := by decide
  postTimeout := by decide

theorem Move.itemsLegal {G : Prop} {P : Option Party} {s t : State} (hm : Move G P s t) (h : ItemsLegal s) :
    ItemsLegal t := by
  cases hm with
  | marks | ports | raiseMgr | accounts | manager | closeEvents => exact ⟨h.1, h.2, h.3, h.4, h.5, h.6, h.7⟩
  | items r l c p m legal => exact legal h
  | link x l reserved sending laws ctrl =>
    refine ⟨h.1, h.2, h.3, h.4, fun y => ?_, h.6, h.7⟩
    rw [State.setLink_link]
    split
    · exact ctrl (h.ctrls x)
    · exact h.ctrls y
  | reserve x c rest => exact h.congr (fun _ => rfl) rfl rfl rfl (setLink_ctrl (s := s) (by rfl)) rfl rfl
  | returnAll x => exact h.congr (fun _ => rfl) rfl rfl rfl (setLink_ctrl (s := s) (by rfl)) rfl rfl
  | discard n =>
    cases hr : s.record n with
    | none => rwa [State.discardOne_none hr]
    | some r =>
      refine h.congr (discardOne_depth hr) ?_ ?_ ?_ (fun x => ?_) ?_ ?_
      case refine_4 =>
        rw [discardOne_link s n x (by simp [hr]), Link.dropSendingOf]
        split <;> rfl
      all_goals rw [State.discardOne_spec hr]
  | store n r b =>
    rcases s.storePayload_cases n b with e | ⟨r, a, -, -, e⟩ <;> rw [e]
    · exact h
    · exact h.congr (fun _ => rfl) rfl rfl rfl (fun _ => rfl) rfl rfl
  | take x n r c rest b =>
    have h' : ItemsLegal (s.takeOne x n r c rest) :=
      h.congr (fun _ => rfl) rfl rfl rfl (setLink_ctrl (s := s) (by rfl)) rfl rfl
    rcases (s.takeOne x n r c rest).storePayload_cases n b with e | ⟨r', a, -, -, e⟩ <;> rw [e]
    · exact h'
    · exact h'.congr (fun _ => rfl) rfl rfl rfl (fun _ => rfl) rfl rfl
  | commit n r =>
    have hd : SameDepths s (committed s n r) := fun q => by simp [committed]
    rw [committed_rest] at hd ⊢
    exact h.congr hd rfl rfl rfl (fun _ => rfl) rfl rfl
  | choose x n =>
    rw [State.setRecState_spec]
    exact h.congr (fun _ => rfl) rfl rfl rfl (setLink_ctrl (s := s) (by rfl)) rfl rfl
  | lend k n q =>
    rw [State.lend, State.setRecState_spec]
    exact h.congr (fun _ => rfl) rfl rfl rfl (fun _ => rfl) rfl rfl
  | clearLoan k =>
    rcases s.clearLoan_cases k with ⟨-, e⟩ | ⟨l, -, e⟩ <;> rw [e]
    · exact h
    · rw [State.setRecState_spec]
      exact h.congr (fun _ => rfl) rfl rfl rfl (fun _ => rfl) rfl rfl
  | requeue x sd r m due => exact h.congr (fun _ => rfl) rfl rfl rfl (setLink_ctrl (s := s) (by rfl)) rfl rfl
  | undeliver x sd r =>
    have hd : SameDepths s (undelivered s x sd.recId r) := fun q => by simp [undelivered]
    rw [undelivered_rest] at hd ⊢
    exact h.congr hd rfl rfl rfl (setLink_ctrl (s := s) (by rfl)) rfl rfl
  | post k hd q n m =>
    have hd : SameDepths s (posted s k hd q n m) := fun q' => by simp [posted]
    exact h.congr hd rfl rfl rfl (fun _ => rfl) rfl rfl
  | frame x hdr n =>
    have hd : SameDepths s (framed s x hdr n) := fun q => by simp [framed]
    rw [framed_rest] at hd ⊢
    exact h.congr hd rfl rfl rfl (fun _ => rfl) rfl rfl
  | depth q d range room budget =>
    exact ⟨h.1, h.depths.setDepth range budget, h.3, h.4, h.5, h.6, h.7⟩
  | restart k =>
    have hd : SameDepths s (s.restartAll k) := fun q => by simp [State.restartAll, State.qclass, vget_map]
    obtain ⟨-, -, -, hr, hl, hm, hp, -⟩ := restartAll_keep s k
    exact {
      routes := by simpa only [RoutesUnique, hr] using h.routes
      depths := hd.legal h.depths
      runLimits := by simpa only [hl] using h.runLimits
      runCounts := fun i => by simp [State.restartAll, vget_replicate]
      ctrls := fun x => by simpa [State.restartAll, State.link, vget_map, Link.restart] using h.ctrls x
      lowMark := by rw [hm]; exact h.lowMark
      postTimeout := by rw [hp]; exact h.postTimeout }
  | reset t ht =>
    cases ht
    exact reset_itemsLegal.congr (by intro; rfl) rfl rfl rfl (fun _ => rfl) rfl rfl

/-! ### The pool's bytes -/

theorem Move.memWf {G : Prop} {P : Option Party} {s t : State} (hm : Move G P s t) (h : s.mem.wf = true) :
    t.mem.wf = true := by
  cases hm with
  | marks | ports | raiseMgr | items | accounts | depth | manager | closeEvents | link | reserve | returnAll | post => exact h
  | restart k => rw [(restartAll_keep s k).1]; exact h
  | requeue => unfold requeued; exact h
  | discard n => rw [(s.discardOne_keep n).1]; exact h
  | store n r b => exact s.storePayload_mem_wf n b h
  | take x n r c rest b => exact State.storePayload_mem_wf _ n b h
  | commit n r => rw [committed_rest]; exact h
  | choose x n => rw [State.setRecState_spec]; exact h
  | lend k n q => rw [State.lend, State.setRecState_spec]; exact h
  | clearLoan k =>
    rcases s.clearLoan_cases k with ⟨-, e⟩ | ⟨l, -, e⟩ <;> rw [e]
    · exact h
    · rw [State.setRecState_spec]; exact h
  | undeliver x sd r => rw [undelivered_rest]; exact h
  | frame x hdr n => rw [framed_rest]; exact h
  | reset t ht => cases ht; exact h

end Sys2Proof.Safety
end

section
/-! SUPPORT. Every move keeps the ports, the role and the snapshots sound, and keeps what a link holds in each state. -/

namespace Sys2Proof.Safety

open Sys2Proof.Machine

/-! ### Kinds -/

/-- Every kind of `a` is in `b`, bit by bit. -/
theorem kindsIn_iff {a b : Byte} : kindsIn a b ↔ ∀ i, i < 8 → a.getLsbD i = true → b.getLsbD i = true := by
  unfold kindsIn
  constructor
  · intro h i hi ha
    have := congrArg (·.getLsbD i) h
    simpa [ha, hi] using this
  · intro h
    refine BitVec.eq_of_getLsbD_eq fun i hi => ?_
    have := h i hi
    cases ha : a.getLsbD i <;> simp_all

theorem kindsIn_refl (a : Byte) : kindsIn a a := kindsIn_iff.mpr fun _ _ h => h

theorem kindsIn_zero (b : Byte) : kindsIn 0 b := kindsIn_iff.mpr fun _ _ h => by simp at h

/-- A kind raised keeps what was set. -/
theorem kindsIn.raise {a b : Byte} (h : kindsIn a b) (c : Byte) : kindsIn a (b ||| c) :=
  kindsIn_iff.mpr fun i hi ha => by simp [kindsIn_iff.mp h i hi ha]

/-- A late raise is noted only for a kind of the part. -/
theorem kindsIn.note {late part : Byte} (h : kindsIn late part) (c : Byte) : kindsIn (late ||| (part &&& c)) part :=
  kindsIn_iff.mpr fun i hi ha => by
    have := kindsIn_iff.mp h i hi
    cases hp : part.getLsbD i <;> simp_all

/-! ### The ports -/

/-- What is said of a port is read from the manager and the manager set alone, beside the port. -/
theorem PortSound.congr {s t : State} {k : PortId} {p : Port} (h : PortSound s k p) (hm : t.manager = s.manager)
    (hs : t.mgrSet = s.mgrSet) : PortSound t k p where
  laws := h.laws
  unfenced := by rw [hm]; exact h.unfenced
  uqLoan := by rw [hm]; exact h.uqLoan
  snapshot := by rw [hm, hs]; exact h.snapshot

theorem PortsSound.congr {s t : State} (h : PortsSound s) (hp : t.ports = s.ports) (hm : t.manager = s.manager)
    (hs : t.mgrSet = s.mgrSet) (hk : t.mgrMask = s.mgrMask) : PortsSound t := by
  obtain ⟨h1, h2⟩ := portsSound_iff.mp h
  refine portsSound_iff.mpr ⟨fun k => ?_, by rw [hm, hk]; exact h2⟩
  have e : t.port k = s.port k := by simp only [State.port, hp]
  rw [e]
  exact (h1 k).congr hm hs

/-- Changes of single ports, each kept sound. -/
theorem PortsSound.ofPorts {s t : State} (h : PortsSound s) (hp : ∀ k, PortSound s k (s.port k) → PortSound s k (t.port k))
    (hm : t.manager = s.manager) (hs : t.mgrSet = s.mgrSet) (hk : t.mgrMask = s.mgrMask) : PortsSound t := by
  obtain ⟨h1, h2⟩ := portsSound_iff.mp h
  exact portsSound_iff.mpr ⟨fun k => (hp k (h1 k)).congr hm hs, by rw [hm, hk]; exact h2⟩

/-- Giving up a loan, with the readout of it, keeps a port sound. -/
theorem PortSound.dropLoan {s : State} {k : PortId} {p : Port} (h : PortSound s k p) :
    PortSound s k { p with loan := none, readout := none } where
  laws := ⟨h.laws.idle, h.laws.phase, h.laws.timer, fun c => absurd rfl c, h.laws.snapshot⟩
  unfenced := h.unfenced
  uqLoan l hl := by cases hl
  snapshot := h.snapshot

theorem PortSound.dropLoanOf {s : State} {k : PortId} {p : Port} (h : PortSound s k p) (n : RecId) :
    PortSound s k (p.dropLoanOf n) := by
  unfold Port.dropLoanOf
  split
  · exact h.dropLoan
  · exact h

/-- Raising a host event keeps a port sound: the snapshot's kinds stay set (R118, R123). -/
theorem PortSound.raise {s : State} {k : PortId} {p : Port} (h : PortSound s k p) (e : HostEvent) :
    PortSound s k (p.raise e) where
  laws := ⟨h.laws.idle, h.laws.phase, h.laws.timer, h.laws.readout, fun c => h.laws.snapshot (by
    cases hs : p.snapshot <;> simp_all [Port.raise])⟩
  unfenced := h.unfenced
  uqLoan := h.uqLoan
  snapshot sn hsn := by
    simp only [Port.raise, Option.map_eq_some_iff] at hsn
    obtain ⟨sn', h', rfl⟩ := hsn
    obtain ⟨h1, h2, h3⟩ := h.snapshot sn' h'
    exact ⟨h1.raise _, h2.note _, h3⟩

/-- Raising a manager event keeps every port sound (R120, R123). -/
theorem PortSound.raiseMgr {s : State} {k : PortId} {p : Port} (h : PortSound s k p) (e : MgrEvent) :
    PortSound (s.raiseMgr e) k (p.noteMgr e) where
  laws := ⟨h.laws.idle, h.laws.phase, h.laws.timer, h.laws.readout, fun c => h.laws.snapshot (by
    cases hs : p.snapshot <;> simp_all [Port.noteMgr])⟩
  unfenced := h.unfenced
  uqLoan := h.uqLoan
  snapshot sn hsn := by
    simp only [Port.noteMgr, Option.map_eq_some_iff] at hsn
    obtain ⟨sn', h', rfl⟩ := hsn
    obtain ⟨h1, h2, h3⟩ := h.snapshot sn' h'
    refine ⟨h1, h2, fun part late hm => ?_⟩
    simp only [Snapshot.noteMgr, Option.map_eq_some_iff, Prod.mk.injEq] at hm
    obtain ⟨⟨part', late'⟩, hm, rfl, rfl⟩ := hm
    obtain ⟨h4, h5, h6⟩ := h3 part' late' hm
    exact ⟨h4, h5.raise _, h6.note _⟩

/-- Satisfying a watch keeps a port sound (R39). -/
theorem PortSound.satisfy {s : State} {k : PortId} {p : Port} (h : PortSound s k p) : PortSound s k p.satisfy := by
  have h' := h.raise .room
  exact ⟨⟨h'.laws.idle, h'.laws.phase, h'.laws.timer, h'.laws.readout, h'.laws.snapshot⟩, h'.unfenced, h'.uqLoan,
    h'.snapshot⟩

/-- Ending a transaction that is open or running keeps a port sound (R86, R125). -/
theorem PortSound.endTx {s : State} {k : PortId} {p : Port} (h : PortSound s k p) (ht : p.tx ≠ .idle) :
    PortSound s k p.endTx where
  laws := ⟨fun c => absurd (h.laws.idle c) ht, fun c => absurd rfl c, fun c => absurd rfl c, fun c => absurd rfl c,
    fun c => absurd rfl c⟩
  unfenced := h.unfenced
  uqLoan := h.uqLoan
  snapshot sn hsn := by cases hsn

/-- What a restart does on a port keeps it sound, if its transaction is none of those that hold something (R98). -/
theorem PortSound.restartOwn {s t : State} {k : PortId} {p : Port} (h : PortSound s k p) (hm : t.manager = s.manager)
    (hs : p.snapshot = none) : PortSound t k p.restartOwn where
  laws := ⟨h.laws.idle, h.laws.phase, fun c => absurd rfl c, fun c => absurd rfl c, fun c => absurd hs c⟩
  unfenced := by rw [hm]; exact h.unfenced
  uqLoan l hl := by cases hl
  snapshot sn hsn := by
    have : p.snapshot = some sn := hsn
    rw [hs] at this
    cases this

/-- A port whose transaction is not open holds no snapshot. -/
theorem PortLaws.snapshot_none {p : Port} (h : PortLaws p) (ht : p.tx ≠ .running .events) : p.snapshot = none := by
  by_contra c
  exact ht (h.snapshot c)

theorem PortSound.restartOther {s t : State} {k : PortId} {p : Port} (h : PortSound s k p)
    (hm : t.manager = s.manager) : PortSound t k p.restartOther := by
  unfold Port.restartOther
  split
  · rename_i ho
    exact (h.endTx (by rintro e; simp [e, TxState.isOpen] at ho)).restartOwn hm rfl
  · rename_i ho
    exact h.restartOwn hm (h.laws.snapshot_none (by rintro e; simp [e, TxState.isOpen] at ho))

/-- The ports after power-on reset are sound, whatever the level of the select pins (R97, R128). -/
theorem reset_portSound {s : State} {k : PortId} {a : Byte} {low : Bool} :
    PortSound s k { Port.reset a with selLow := low } where
  laws := ⟨fun _ => rfl, fun c => absurd rfl c, fun c => absurd rfl c, fun c => absurd rfl c, fun c => absurd rfl c⟩
  unfenced _ := rfl
  uqLoan l hl := by cases hl
  snapshot sn hsn := by cases hsn

theorem port_cases (k : PortId) : k = 0 ∨ k = 1 ∨ k = 2 ∨ k = 3 := by revert k; decide

theorem Move.portsSound {G : Prop} {P : Option Party} {s t : State} (hm : Move G P s t) (h : PortsSound s) :
    PortsSound t := by
  cases hm with
  | marks | items | accounts | depth | link | reserve | returnAll => exact h.congr rfl rfl rfl rfl
  | ports ps loan phase sound => exact h.ofPorts sound rfl rfl rfl
  | raiseMgr e =>
    obtain ⟨h1, h2⟩ := portsSound_iff.mp h
    refine portsSound_iff.mpr ⟨fun k => ?_, h2⟩
    rw [State.raiseMgr_port]
    exact (h1 k).raiseMgr e
  | discard n =>
    cases hr : s.record n with
    | none => rwa [State.discardOne_none hr]
    | some r =>
      obtain ⟨-, -, -, -, -, -, hs, hk, hma, -⟩ := s.discardOne_keep n
      refine h.ofPorts (fun k hp => ?_) hma hs hk
      rw [discardOne_port s n k (by simp [hr])]
      exact hp.dropLoanOf n
  | store n r b =>
    rcases s.storePayload_cases n b with e | ⟨r, a, -, -, e⟩ <;> rw [e]
    · exact h
    · exact h.congr rfl rfl rfl rfl
  | take x n r c rest b =>
    have h' : PortsSound (s.takeOne x n r c rest) := h.congr rfl rfl rfl rfl
    rcases (s.takeOne x n r c rest).storePayload_cases n b with e | ⟨r', a, -, -, e⟩ <;> rw [e]
    · exact h'
    · exact h'.congr rfl rfl rfl rfl
  | commit n r => rw [committed_rest]; exact h.congr rfl rfl rfl rfl
  | choose x n => rw [State.setRecState_spec]; exact h.congr rfl rfl rfl rfl
  | lend k n q free head role =>
    refine h.ofPorts (fun j hj => ?_) ?_ ?_ ?_
    · by_cases e : k = j
      · subst e
        have ep : (s.lend k n q).port k = { s.port k with loan := some { recId := n, queue := q } } := by
          simp [State.lend]
        rw [ep]
        refine ⟨⟨hj.laws.idle, hj.laws.phase, hj.laws.timer, hj.laws.readout, hj.laws.snapshot⟩, hj.unfenced, ?_,
          hj.snapshot⟩
        rintro l hl hq
        cases hl
        exact role hq
      · have ep : (s.lend k n q).port j = s.port j := by simp [State.lend, State.setRecState_spec, e]
        rw [ep]
        exact hj
    all_goals simp [State.lend, State.setRecState_spec]
  | clearLoan k =>
    rcases s.clearLoan_cases k with ⟨-, e⟩ | ⟨l, -, e⟩ <;> rw [e]
    · exact h
    · refine h.ofPorts (fun j hj => ?_) ?_ ?_ ?_
      · rw [State.setPort_port]
        split
        · rename_i e; subst e; exact hj.dropLoan
        · simpa [State.setRecState_spec] using hj
      all_goals simp [State.setRecState_spec]
  | requeue => unfold requeued; exact h.congr rfl rfl rfl rfl
  | undeliver x sd r => rw [undelivered_rest]; exact h.congr rfl rfl rfl rfl
  | post => exact h.congr rfl rfl rfl rfl
  | frame x hdr n => rw [framed_rest]; exact h.congr rfl rfl rfl rfl
  | manager o mask sound => exact sound h
  | closeEvents k p b loan phase sound => exact sound h
  | restart k tx =>
    obtain ⟨h1, h2⟩ := portsSound_iff.mp h
    obtain ⟨-, -, -, -, -, -, -, hma, hk⟩ := restartAll_keep s k
    refine portsSound_iff.mpr ⟨fun j => ?_, by rw [hma, hk]; exact h2⟩
    have e : (s.restartAll k).port j = if k = j then (s.port k).restartOwn else (s.port j).restartOther := by
      simp [State.restartAll, State.port, vget_map]
    rw [e]
    split
    · rename_i e
      subst e
      exact (h1 k).restartOwn hma ((h1 k).laws.snapshot_none (by rw [tx]; simp))
    · exact (h1 j).restartOther hma
  | reset t ht =>
    cases ht
    refine portsSound_iff.mpr ⟨fun k => ?_, fun _ => rfl⟩
    rcases port_cases k with rfl | rfl | rfl | rfl <;> exact reset_portSound

/-! ### The links -/

/-- A change of link `x`, kept sound, keeps every link so. -/
theorem linkLaws_setLink {s : State} {x : LinkId} {l : Link} (h : ∀ y, LinkLaws (s.link y)) (hl : LinkLaws l)
    (y : LinkId) : LinkLaws ((s.setLink x l).link y) := by
  rw [State.setLink_link]
  split
  · exact hl
  · exact h y

/-- A link that gives its sending record up keeps its laws. -/
theorem LinkLaws.dropSending {l : Link} (h : LinkLaws l) (due : Bool) :
    LinkLaws { l with sending := none, abmDue := due } :=
  ⟨h.ctrl, h.disabled, h.silence, h.holdTimer, h.credit, h.counts, h.reserved, h.inactive, h.header,
    fun _ hs => by cases hs⟩

theorem LinkLaws.dropSendingOf {l : Link} (h : LinkLaws l) (n : RecId) : LinkLaws (l.dropSendingOf n) := by
  unfold Link.dropSendingOf
  split
  · exact h.dropSending l.abmDue
  · exact h

/-- What a restart does on a link meets the laws of HOLD or OFF (R163). -/
theorem LinkLaws.restart {l : Link} (h : LinkLaws l) : LinkLaws l.restart where
  ctrl := h.ctrl
  disabled c := by
    have : l.ctrl.enable = false := c
    simp [Link.restart, this]
  silence := by
    cases hc : l.ctrl.enable <;> simp [Link.restart, hc]
  holdTimer := by cases hc : l.ctrl.enable <;> simp [Link.restart, hc]
  credit := Nat.zero_le _
  counts := ⟨Nat.zero_le _, Nat.zero_le _, h.counts.2.2⟩
  reserved := Nat.zero_le _
  inactive _ := ⟨rfl, rfl, rfl, rfl, rfl⟩
  header := ⟨fun _ => rfl, fun c => by cases c⟩
  sending _ hs := by cases hs

theorem reset_linkLaws : LinkLaws Link.reset where
  ctrl := by unfold CtrlLegal; decide
  disabled _ := rfl
  silence := by decide
  holdTimer := by decide
  credit := Nat.zero_le _
  counts := by decide
  reserved := Nat.zero_le _
  inactive _ := ⟨rfl, rfl, rfl, rfl, rfl⟩
  header := ⟨fun _ => rfl, fun c => by cases c⟩
  sending _ hs := by cases hs

/-- A reserve one keeps the laws of an ACTIVE link below its window (R30, R34). -/
theorem LinkLaws.reserve {l : Link} (h : LinkLaws l) (ha : l.state = .active) (hw : l.reserved.length < l.ctrl.window)
    (c : CellId) : LinkLaws { l with reserved := l.reserved ++ [c], pendingGrants := l.pendingGrants + 1 } := by
  obtain ⟨-, -, hmax, -⟩ := h.ctrl
  refine ⟨h.ctrl, h.disabled, h.silence, h.holdTimer, h.credit, h.counts, ?_, fun c => absurd ha c, h.header, h.sending⟩
  simp only [List.length_append, List.length_singleton]
  omega

/-- A return all keeps the laws (R33). -/
theorem LinkLaws.returnAll {l : Link} (h : LinkLaws l) : LinkLaws { l with reserved := [], pendingGrants := 0 } :=
  ⟨h.ctrl, h.disabled, h.silence, h.holdTimer, h.credit, h.counts, Nat.zero_le _,
    fun c => let ⟨h1, _, _, h4, h5⟩ := h.inactive c; ⟨h1, rfl, rfl, h4, h5⟩, h.header, h.sending⟩

/-- A take one keeps the laws (R32). -/
theorem LinkLaws.take {l : Link} {c : CellId} {rest : List CellId} (h : LinkLaws l) (hr : l.reserved = c :: rest) :
    LinkLaws { l with reserved := rest } := by
  have hlen := h.reserved
  rw [hr, List.length_cons] at hlen
  refine ⟨h.ctrl, h.disabled, h.silence, h.holdTimer, h.credit, h.counts, Nat.le_of_succ_le hlen, fun hc => ?_,
    h.header, h.sending⟩
  obtain ⟨-, h2, -⟩ := h.inactive hc
  rw [hr] at h2
  cases h2

theorem Move.linkLaws {G : Prop} {P : Option Party} {s t : State} (hm : Move G P s t) (h : ∀ x, LinkLaws (s.link x)) :
    ∀ x, LinkLaws (t.link x) := by
  cases hm with
  | marks | items | accounts | depth | ports | raiseMgr | manager | closeEvents | post => exact h
  | link x l reserved sending laws => exact linkLaws_setLink h (laws (h x))
  | reserve x c rest free can =>
    obtain ⟨ha, hw, -⟩ := State.canReserve_spec can
    exact linkLaws_setLink (s := s) h ((h x).reserve ha hw c)
  | returnAll x => exact linkLaws_setLink (s := s) h (h x).returnAll
  | discard n =>
    cases hr : s.record n with
    | none => rwa [State.discardOne_none hr]
    | some r =>
      intro x
      rw [discardOne_link s n x (by simp [hr])]
      exact (h x).dropSendingOf n
  | store n r b =>
    rcases s.storePayload_cases n b with e | ⟨r, a, -, -, e⟩ <;> rw [e] <;> exact h
  | take x n r c rest b reserved =>
    have h' : ∀ y, LinkLaws ((s.takeOne x n r c rest).link y) := linkLaws_setLink (s := s) h ((h x).take reserved)
    rcases (s.takeOne x n r c rest).storePayload_cases n b with e | ⟨r', a, -, -, e⟩ <;> rw [e] <;> exact h'
  | commit n r => rw [committed_rest]; exact h
  | choose x n active =>
    rw [State.setRecState_spec]
    have hx := h x
    exact linkLaws_setLink (s := s) h ⟨hx.ctrl, hx.disabled, hx.silence, hx.holdTimer, hx.credit, hx.counts,
      hx.reserved, hx.inactive, hx.header, fun _ _ => .inl active⟩
  | lend k n q => rw [State.lend, State.setRecState_spec]; exact h
  | clearLoan k =>
    rcases s.clearLoan_cases k with ⟨-, e⟩ | ⟨l, -, e⟩ <;> rw [e]
    · exact h
    · rw [State.setRecState_spec]; exact h
  | requeue x sd r m due => exact linkLaws_setLink (s := s) h ((h x).dropSending due)
  | undeliver x sd r =>
    rw [undelivered_rest]
    exact linkLaws_setLink (s := s) h ((h x).dropSending (s.link x).abmDue)
  | frame x hdr n => rw [framed_rest]; exact h
  | restart k =>
    intro x
    have e : (s.restartAll k).link x = (s.link x).restart := by simp [State.restartAll, State.link, vget_map]
    rw [e]
    exact (h x).restart
  | reset t ht =>
    cases ht
    intro x
    simpa [State.link, State.reset, vget_replicate] using reset_linkLaws

end Sys2Proof.Safety
end

section
/-! SUPPORT. The shared operations as chains of moves. -/

namespace Sys2Proof.Safety

open Sys2Proof.Machine

section
variable {G : Prop} {P : Option Party} {s t u : State}

theorem Move.moves (h : Move G P s t) : Moves G P s t := Relation.ReflTransGen.single h

/-! ### Single updates -/

theorem moves_marks (s : State) (ties : Nat) (owed : List LinkId) (ahead : Option QueueId) (pending : List Instr) :
    Moves G P s { s with ties := ties, owed := owed, ahead := ahead, pending := pending } :=
  (Move.marks ties owed ahead pending).moves

/-- A change of one port. -/
theorem moves_setPort {k : PortId} {p : Port} (loan : p.loan = (s.port k).loan)
    (phase : P = some (.host k) ∨ (PortLaws (s.port k) → (p.phase = .filling ↔ (s.port k).phase = .filling)))
    (sound : PortSound s k (s.port k) → PortSound s k p) : Moves G P s (s.setPort k p) := by
  refine (Move.ports (vset s.ports k p) (fun j => ?_) (fun j => ?_) fun j => ?_).moves <;>
    rw [vget_vset] <;> split
  · rename_i e; rw [loan, e]
  · rfl
  · rename_i e; subst e; exact phase
  · exact .inr fun _ => Iff.rfl
  · rename_i e; subst e; exact sound
  · exact id

/-- A port that keeps what the invariants read of it. -/
theorem PortSound.of_same {k : PortId} {p q : Port} (h : PortSound s k p) (h1 : q.selLow = p.selLow) (h2 : q.tx = p.tx)
    (h3 : q.phase = p.phase) (h4 : q.timer = p.timer) (h5 : q.readout = p.readout) (h6 : q.snapshot = p.snapshot)
    (h7 : q.fenced = p.fenced) (h8 : q.loan = p.loan) (h9 : q.hostSet = p.hostSet) : PortSound s k q where
  laws := ⟨by rw [h1, h2]; exact h.laws.idle, by rw [h3, h2]; exact h.laws.phase, by rw [h4, h2]; exact h.laws.timer,
    by rw [h5, h2]; exact h.laws.readout, by rw [h6, h2]; exact h.laws.snapshot⟩
  unfenced := by rw [h7]; exact h.unfenced
  uqLoan := by rw [h8]; exact h.uqLoan
  snapshot := by rw [h6, h9]; exact h.snapshot

/-- A request taken or started in an open transaction (R84). -/
theorem PortSound.start {k : PortId} {p : Port} (h : PortSound s k p) (ht : p.tx = .opened) (r : Request) :
    PortSound s k { p with tx := .running r } where
  laws := by
    refine ⟨fun c => ?_, fun c => ?_, fun c => ?_, fun c => ?_, fun c => ?_⟩
    · have := h.laws.idle c; rw [ht] at this; cases this
    · have := h.laws.phase c; rw [ht] at this; cases this
    · have := h.laws.timer c; rw [ht] at this; cases this
    · have := h.laws.readout c; rw [ht] at this; cases this
    · have := h.laws.snapshot c; rw [ht] at this; cases this
  unfenced := h.unfenced
  uqLoan := h.uqLoan
  snapshot := h.snapshot

theorem moves_setTx {k : PortId} (ht : (s.port k).tx = .opened) (r : Request) :
    Moves G P s (s.setTx k (.running r)) :=
  moves_setPort rfl (.inr fun _ => Iff.rfl) fun h => h.start ht r

/-- An out byte formed and an in byte counted (R79). -/
theorem moves_shift (s : State) (k : PortId) (early : Bool) (b : Byte) : Moves G P s (s.shift k early b) :=
  moves_setPort rfl (.inr fun _ => Iff.rfl) fun h => h.of_same rfl rfl rfl rfl rfl rfl rfl rfl rfl

theorem moves_setReply (s : State) (k : PortId) (rest : List Byte) : Moves G P s (s.setReply k rest) :=
  moves_setPort rfl (.inr fun _ => Iff.rfl) fun h => h.of_same rfl rfl rfl rfl rfl rfl rfl rfl rfl

theorem moves_raiseHost (s : State) (k : PortId) (e : HostEvent) : Moves G P s (s.raiseHost k e) :=
  moves_setPort rfl (.inr fun _ => Iff.rfl) fun h => h.raise e

theorem moves_raiseMgr (s : State) (e : MgrEvent) : Moves G P s (s.raiseMgr e) := (Move.raiseMgr e).moves

/-- The post timer started in a running POST (R88). -/
theorem PortSound.setTimer {k : PortId} {p : Port} (h : PortSound s k p) (ht : p.tx = .running .post) (o : Option Nat) :
    PortSound s k { p with timer := o } where
  laws := ⟨h.laws.idle, h.laws.phase, fun _ => ht, h.laws.readout, h.laws.snapshot⟩
  unfenced := h.unfenced
  uqLoan := h.uqLoan
  snapshot := h.snapshot

theorem moves_startTimer {k : PortId} (ht : (s.port k).tx = .running .post) : Moves G P s (s.startTimer k) :=
  moves_setPort rfl (.inr fun _ => Iff.rfl) fun h => h.setTimer ht _

/-- A change of one link that leaves what the store reads of it. -/
theorem moves_setLink {x : LinkId} {l : Link} (reserved : l.reserved = (s.link x).reserved)
    (sending : l.sending.map (·.recId) = (s.link x).sending.map (·.recId))
    (ctrl : CtrlLegal (s.link x).ctrl → CtrlLegal l.ctrl) (header : l.headerDone = (s.link x).headerDone)
    (laws : LinkLaws (s.link x) → LinkLaws l) (abm : l.abmDue = true → (s.link x).abmDue = true) :
    Moves G P s (s.setLink x l) := by
  refine (Move.link x l reserved (.inl sending) laws ctrl (.inr header) fun _ h h' => ?_).moves
  have := h (abm h')
  simpa [this] using sending

theorem moves_setRun {d : Party} {c : Nat} (h : ItemsLegal s → c ≤ 15) : Moves G P s (s.setRun d c) := by
  refine (Move.items s.routes s.runLimit (vset s.runCount d.num c) s.postTimeout s.lowMark fun hl => ?_).moves
  refine ⟨hl.routes, hl.depths, hl.runLimits, fun i => ?_, hl.ctrls, hl.lowMark, hl.postTimeout⟩
  rw [vget_vset]
  split
  · exact h hl
  · exact hl.runCounts i

/-! ### The event at the accounts -/

theorem moves_lowMarkTest (s : State) (n : Nat) : Moves G P s (s.lowMarkTest n) := by
  rcases s.lowMarkTest_cases n with h | h <;> rw [h]
  exact moves_raiseMgr s _

theorem moves_reserveOne {x : LinkId} (h : s.canReserve x = true) : Moves G P s (s.reserveOne x) := by
  unfold State.reserveOne
  split
  · exact .refl
  · rename_i c rest hf
    exact (Move.reserve x c rest hf h).moves.trans (moves_lowMarkTest (reservedOne s x c rest) _)

theorem moves_judgeCellsOf (s : State) (k : PortId) : Moves G P s (s.judgeCellsOf k) := by
  rcases s.judgeCellsOf_cases k with h | ⟨-, h⟩ <;> rw [h]
  exact moves_setPort rfl (.inr fun _ => Iff.rfl) PortSound.satisfy

theorem moves_judgeCells (s : State) : Moves G P s s.judgeCells :=
  (((moves_judgeCellsOf s 0).trans (moves_judgeCellsOf _ 1)).trans (moves_judgeCellsOf _ 2)).trans
    (moves_judgeCellsOf _ 3)

theorem moves_contend (fuel : Nat) (ls : List LinkId) (w : Bool) (s : State) :
    Moves G P s (State.contend fuel ls w s) := by
  induction fuel generalizing w s with
  | zero => exact .refl
  | succ n ih =>
    unfold State.contend
    split
    · exact .refl
    · rename_i s' h
      obtain ⟨-, m, rfl⟩ := State.nextContender_spec h
      exact ((moves_marks s m _ _ _).trans (moves_judgeCells _)).trans (ih _ _)
    · rename_i x s' h
      obtain ⟨hc, m, rfl⟩ := State.nextContender_spec h
      exact ((moves_marks s m _ _ _).trans (moves_reserveOne (State.mem_contenders_link hc).2)).trans (ih _ _)
    · rename_i s' h
      obtain ⟨-, m, rfl⟩ := State.nextContender_spec h
      exact moves_marks s m ls _ _

theorem moves_event (s : State) (ls : List LinkId) (w : Bool) : Moves G P s (s.accountsEvent ls w) :=
  (moves_marks s _ [] _ _).trans (moves_contend _ _ _ _)

theorem moves_resume (s : State) : Moves G P s s.resume := moves_event s [] false

theorem moves_finish (s : State) (x : LinkId) : Moves G P s (s.finish x) :=
  ((moves_marks s _ _ _ []).trans (moves_resume _)).trans
    (moves_marks _ _ (s.owed.filter (· != x)) _ s.pending)

/-! ### Discards -/

theorem moves_judgeDepth (s : State) (falls : List QueueId) : Moves G P s (s.judgeDepth falls) := by
  have key (k : PortId) :
      vget (s.judgeDepth falls).ports k = s.port k ∨ vget (s.judgeDepth falls).ports k = (s.port k).satisfy := by
    simp only [State.judgeDepth, State.port, vget_map]
    split
    · split
      · exact .inr rfl
      · exact .inl rfl
    · exact .inl rfl
  refine (Move.ports (s.judgeDepth falls).ports (fun k => ?_) (fun k => ?_) fun k h => ?_).moves <;>
    rcases key k with e | e <;> rw [e]
  · rfl
  · exact .inr fun _ => Iff.rfl
  · exact .inr fun _ => Iff.rfl
  · exact h
  · exact h.satisfy

theorem moves_passOn (s before : State) (r : Returned) : Moves G P s (s.passOn before r) := by
  have h : Moves G P s ((s.judgeDepth r.falls).noteFalls before r.falls) :=
    (moves_judgeDepth s r.falls).trans (moves_marks _ _ _ _ _)
  unfold State.passOn
  split
  · exact h.trans (moves_event _ _ _)
  · exact h

theorem moves_discard {n : RecId} (place : G → ∀ r, s.record n = some r → r.state = .assembling → P = some r.origin) :
    Moves G P s (s.discard n) :=
  (Move.discard n place).moves.trans (moves_passOn _ _ _)

/-- What discards of several records leave of a record. -/
theorem discardMany_record (s : State) (ns : List RecId) (m : RecId) :
    (s.discardMany ns).record m = if m ∈ ns then none else s.record m := by
  induction ns generalizing s with
  | nil => simp [State.discardMany]
  | cons n ns ih =>
    have e : s.discardMany (n :: ns) = (s.discardOne n).discardMany ns := rfl
    rw [e, ih, State.discardOne_record]
    by_cases h1 : m ∈ ns
    · simp [h1]
    · by_cases h2 : m = n
      · simp [h2]
      · simp [h1, h2, Ne.symm h2]

/-- Discards of records that are not assembling. -/
theorem moves_discardMany {ns : List RecId}
    (place : G → ∀ n ∈ ns, ∀ r, s.record n = some r → r.state ≠ .assembling) : Moves G P s (s.discardMany ns) := by
  induction ns generalizing s with
  | nil => exact .refl
  | cons n ns ih =>
    refine (Move.discard n fun g r hr hs => absurd hs (place g n (by simp) r hr)).moves.trans (ih fun g m hm r hr => ?_)
    rw [State.discardOne_record] at hr
    split at hr
    · cases hr
    · exact place g m (by simp [hm]) r hr

/-! ### Choices, commits and loans -/

/-- The record chosen by service order is the head of a class of the destination, and the run counter after it is in
range (R69, R70). -/
theorem choice_spec {d : Party} {n : RecId} {c : MsgClass} {k : Nat} (h : s.choice d = some (n, c, k)) :
    (s.qclass { dest := d, cls := c }).recs.head? = some n ∧ (ItemsLegal s → k ≤ 15) := by
  have hrun (hi : ItemsLegal s) : s.run d ≤ 15 := hi.runCounts d.num
  have hlim (hi : ItemsLegal s) : vget s.runLimit d.num ≤ 15 := (hi.runLimits d.num).2
  unfold State.choice at h
  split at h
  · rename_i e rest he hb
    cases h
    exact ⟨by rw [he]; rfl, hrun⟩
  · rename_i e rest b rest' he hb
    split at h
    · rename_i hlt
      cases h
      exact ⟨by rw [he]; rfl, fun hi => by have := hlim hi; omega⟩
    · cases h
      exact ⟨by rw [hb]; rfl, fun _ => Nat.zero_le _⟩
  · rename_i b rest he hb
    cases h
    exact ⟨by rw [hb]; rfl, fun _ => Nat.zero_le _⟩
  · cases h

theorem moves_transmitterChoose (s : State) (x : LinkId) : Moves G P s (s.transmitterChoose x) := by
  rcases s.transmitterChoose_cases x with h | ⟨n, c, k, hc, ha, -, hs, hd, h⟩ <;> rw [h]
  obtain ⟨hhead, hk⟩ := choice_spec hc
  exact (moves_setRun hk).trans (Move.choose (s := s.setRun (.link x) k) x n ha hs hd ⟨c, hhead⟩).moves

theorem moves_commitEvent (s : State) (t : Target) : Moves G P s (s.commitEvent t) := by
  cases t with
  | queue q =>
    obtain ⟨d, c⟩ := q
    cases d with
    | host k => exact moves_raiseHost s k _
    | link x => exact moves_transmitterChoose s x
  | uq => exact moves_raiseMgr s _
  | drop => exact .refl

theorem moves_commit {n : RecId} {r : Record} (record : s.record n = some r) (full : r.filled = r.length)
    (slot : G → s.slot r.origin = some n ∧ P = some r.origin) (target : G → r.target ≠ .drop) :
    Moves G P s (s.commit n) := by
  rw [State.commit_spec record]
  exact (Move.commit n r record full slot target).moves.trans (moves_commitEvent _ _)

theorem moves_clearLoan (s : State) (k : PortId) : Moves G P s (s.clearLoan k) := (Move.clearLoan k).moves

/-! ### The end of a transaction -/

theorem moves_endTx {k : PortId} (ht : (s.port k).tx ≠ .idle)
    (hp : P = some (.host k) ∨ (PortLaws (s.port k) → (s.port k).phase ≠ .filling)) :
    Moves G P s (s.setPort k (s.port k).endTx) := by
  refine moves_setPort rfl (hp.imp_right fun h hl => ?_) fun h => h.endTx ht
  have := h hl
  simp [Port.endTx, this]

theorem moves_abortPost {k : PortId} (place : G → ∀ n r, s.slot (.host k) = some n → s.record n = some r →
    r.state = .assembling → P = some r.origin) : Moves G P s (s.abortPost k) := by
  unfold State.abortPost
  split
  · exact .refl
  · rename_i n hn
    exact (moves_discard fun g r => place g n r hn).trans (moves_raiseHost _ _ _)

end

/-! ### The discard of a record, and another link -/

/-- A transmitter that named a discarded record differs in that alone (R19). -/
theorem dropSendingOf_eq (l : Link) (n : RecId) :
    l.dropSendingOf n =
      { l with sending := if l.sending.map (·.recId) = some n then none else l.sending } := by
  unfold Link.dropSendingOf
  split <;> rfl

/-- The discard of a record, with a link changed before or after it. -/
theorem discardOne_setLink (s : State) (x : LinkId) (l : Link) (n : RecId) (h : s.record n ≠ none) :
    (s.setLink x l).discardOne n = (s.discardOne n).setLink x (l.dropSendingOf n) := by
  obtain ⟨r, hr⟩ := Option.ne_none_iff_exists'.mp h
  have hr' : (s.setLink x l).record n = some r := hr
  have hl : (vset s.links x l).map (Link.dropSendingOf n) =
      vset (s.links.map (Link.dropSendingOf n)) x (l.dropSendingOf n) := by
    apply vget_ext
    intro y
    rw [vget_map, vget_vset, vget_vset, vget_map]
    split <;> rfl
  have ho : (s.setLink x l).outOfPlace n r = (s.outOfPlace n r).setLink x l := by
    unfold State.outOfPlace
    cases r.target <;> split <;> rfl
  rw [State.discardOne_spec hr', State.discardOne_spec hr, ho]
  simp only [State.setLink, hl]
  rfl

end Sys2Proof.Safety
end

section
/-! SUPPORT. The references to records (R9, R13, R15, R60, R106) and where each record in use is: what keeps them, and the
discard of a record. -/

namespace Sys2Proof.Safety

open Sys2Proof.Machine

/-- The record that a transmitter names, if one. -/
def sends (s : State) (x : LinkId) : Option RecId := (s.link x).sending.map (·.recId)

theorem sends_eq_some {s : State} {x : LinkId} {n : RecId} :
    sends s x = some n ↔ ∃ sd, (s.link x).sending = some sd ∧ sd.recId = n := by
  simp [sends]

/-- The references, with what a transmitter names in place of its progress. -/
theorem referencesSound_iff {s : State} :
    ReferencesSound s ↔
      (∀ p n, s.slot p = some n → ∃ r, s.record n = some r ∧ r.origin = p ∧ r.state = .assembling) ∧
      (∀ t n, n ∈ queueOf s t → ∃ r, s.record n = some r ∧ r.target = t ∧ r.state ≠ .assembling) ∧
      (∀ t, (queueOf s t).Nodup) ∧
      (∀ k l, (s.port k).loan = some l →
        (∃ r, s.record l.recId = some r ∧ r.state = .loaned) ∧
          (queueOf s (loanTarget k l)).head? = some l.recId) ∧
      (∀ k k' l l', (s.port k).loan = some l → (s.port k').loan = some l' → l.recId = l'.recId → k = k') ∧
      ∀ x n, sends s x = some n →
        (∃ r, s.record n = some r ∧ r.state = .sending) ∧
          ∃ c, (queueOf s (.queue { dest := .link x, cls := c })).head? = some n := by
  constructor
  · rintro ⟨h1, h2, h3, h4, h5, h6⟩
    refine ⟨h1, h2, h3, h4, h5, fun x n hn => ?_⟩
    obtain ⟨sd, hsd, rfl⟩ := sends_eq_some.mp hn
    exact h6 x sd hsd
  · rintro ⟨h1, h2, h3, h4, h5, h6⟩
    exact ⟨h1, h2, h3, h4, h5, fun x sd hsd => h6 x _ (sends_eq_some.mpr ⟨sd, hsd, rfl⟩)⟩

/-- The places of the records, with what a transmitter names in place of its progress. -/
theorem recordsPlaced_iff {s : State} :
    RecordsPlaced s ↔
      (∀ n r, s.record n = some r → r.state = .assembling → s.slot r.origin = some n) ∧
      (∀ n r, s.record n = some r → r.state ≠ .assembling → n ∈ queueOf s r.target) ∧
      (∀ n r, s.record n = some r → r.state = .loaned → ∃ k l, (s.port k).loan = some l ∧ l.recId = n) ∧
      ∀ n r, s.record n = some r → r.state = .sending → ∃ x, sends s x = some n := by
  simp only [sends_eq_some]
  exact ⟨fun h => ⟨h.assembling, h.committed, h.loaned, h.sending⟩, fun ⟨h1, h2, h3, h4⟩ => ⟨h1, h2, h3, h4⟩⟩

/-- What both read of the state: records, slots, queues, loans and what the transmitters name. -/
structure SameFiles (s t : State) : Prop where
  record : ∀ n, t.record n = s.record n
  slot : ∀ p, t.slot p = s.slot p
  queue : ∀ u, queueOf t u = queueOf s u
  loan : ∀ k, (t.port k).loan = (s.port k).loan
  sends : ∀ x, sends t x = sends s x

theorem SameFiles.references {s t : State} (h : SameFiles s t) (hs : ReferencesSound s) : ReferencesSound t := by
  rw [referencesSound_iff] at *
  simpa only [h.record, h.slot, h.queue, h.loan, h.sends] using hs

theorem SameFiles.placed {s t : State} (h : SameFiles s t) (hs : RecordsPlaced s) : RecordsPlaced t := by
  rw [recordsPlaced_iff] at *
  simpa only [h.record, h.slot, h.queue, h.loan, h.sends] using hs

theorem SameFiles.refl (s : State) : SameFiles s s := ⟨fun _ => rfl, fun _ => rfl, fun _ => rfl, fun _ => rfl, fun _ => rfl⟩

/-- A change of one link that names the same record. -/
theorem sameFiles_setLink {s : State} {x : LinkId} {l : Link}
    (h : l.sending.map (·.recId) = (s.link x).sending.map (·.recId)) : SameFiles s (s.setLink x l) where
  record _ := rfl
  slot _ := rfl
  queue _ := queueOf_setLink s _ x l
  loan _ := rfl
  sends y := by
    unfold Safety.sends
    rw [State.setLink_link]
    split
    · rename_i e; rw [h, e]
    · rfl

/-! ### The discard of a record -/

/-- What a loan is after the discard of record `n`. -/
theorem discardOne_loan {s : State} {n : RecId} (hr : s.record n ≠ none) (k : PortId) :
    ((s.discardOne n).port k).loan =
      if (s.port k).loan.map (·.recId) = some n then none else (s.port k).loan := by
  rw [discardOne_port s n k hr]
  unfold Port.dropLoanOf
  split <;> rfl

/-- What a transmitter names after the discard of record `n`. -/
theorem discardOne_sends {s : State} {n : RecId} (hr : s.record n ≠ none) (x : LinkId) :
    sends (s.discardOne n) x = if sends s x = some n then none else sends s x := by
  unfold sends
  rw [discardOne_link s n x hr]
  unfold Link.dropSendingOf
  split <;> rfl

theorem head?_erase_of_ne {α : Type} [DecidableEq α] {l : List α} {a b : α} (h : l.head? = some a) (hb : b ≠ a) :
    (l.erase b).head? = some a := by
  cases l with
  | nil => cases h
  | cons c l =>
    cases h
    rw [List.erase_cons_tail (by simpa using Ne.symm hb)]
    rfl

section
variable {s : State} {n : RecId} {r : Record} (hr : s.record n = some r)
include hr

/-- A queue after the discard of record `n`: the same, without it. -/
theorem mem_queueOf_discardOne (h : ReferencesSound s) {t : Target} {m : RecId} :
    m ∈ queueOf (s.discardOne n) t ↔ m ∈ queueOf s t ∧ m ≠ n := by
  rw [discardOne_queueOf hr]
  by_cases hm : m = n
  · subst hm
    simp only [ne_eq, not_true_eq_false, and_false, iff_false]
    split
    · exact fun c => ((h.once t).mem_erase_iff.mp c).1 rfl
    · rename_i hc
      intro c
      obtain ⟨r', h1, h2, h3⟩ := h.queues t m c
      rw [hr] at h1
      cases h1
      exact hc ⟨h3, h2⟩
  · split
    · rw [List.mem_erase_of_ne hm]; simp [hm]
    · simp [hm]

theorem head_queueOf_discardOne {t : Target} {m : RecId} (hh : (queueOf s t).head? = some m) (hm : m ≠ n) :
    (queueOf (s.discardOne n) t).head? = some m := by
  rw [discardOne_queueOf hr]
  split
  · exact head?_erase_of_ne hh (Ne.symm hm)
  · exact hh

end

/-- A discard keeps every reference (R19). -/
theorem ReferencesSound.discardOne {s : State} (h : ReferencesSound s) (n : RecId) :
    ReferencesSound (s.discardOne n) := by
  cases hr : s.record n with
  | none => rwa [State.discardOne_none hr]
  | some r =>
    have hne : s.record n ≠ none := by simp [hr]
    have other {m : RecId} (hm : m ≠ n) : (s.discardOne n).record m = s.record m := by
      rw [State.discardOne_record, if_neg (Ne.symm hm)]
    have h0 := referencesSound_iff.mp h
    obtain ⟨h1, h2, h3, h4, h5, h6⟩ := h0
    rw [referencesSound_iff]
    refine ⟨fun p m hp => ?_, fun t m hm => ?_, fun t => ?_, fun k l hl => ?_, fun k k' l l' hl hl' => ?_, fun x m hx => ?_⟩
    · rw [discardOne_slot hr] at hp
      split at hp
      · cases hp
      · rename_i hc
        obtain ⟨r', e1, e2, e3⟩ := h1 p m hp
        refine ⟨r', ?_, e2, e3⟩
        rw [other ?_, e1]
        rintro rfl
        rw [hr] at e1
        cases e1
        exact hc ⟨e3, e2.symm⟩
    · obtain ⟨hm, hmn⟩ := (mem_queueOf_discardOne hr h).mp hm
      rw [other hmn]
      exact h2 t m hm
    · rw [discardOne_queueOf hr]
      split
      · exact (h3 t).erase n
      · exact h3 t
    · rw [discardOne_loan hne] at hl
      split at hl
      · cases hl
      · rename_i hc
        have hn : l.recId ≠ n := fun e => hc (by simp [hl, e])
        obtain ⟨e1, e2⟩ := h4 k l hl
        exact ⟨by rw [other hn]; exact e1, head_queueOf_discardOne hr e2 hn⟩
    · rw [discardOne_loan hne] at hl hl'
      split at hl
      · cases hl
      · split at hl'
        · cases hl'
        · exact h5 k k' l l' hl hl'
    · rw [discardOne_sends hne] at hx
      split at hx
      · cases hx
      · rename_i hc
        have hn : m ≠ n := fun e => hc (by rw [hx, e])
        obtain ⟨e1, c, e2⟩ := h6 x m hx
        exact ⟨by rw [other hn]; exact e1, c, head_queueOf_discardOne hr e2 hn⟩

theorem ReferencesSound.discardMany {s : State} (h : ReferencesSound s) (ns : List RecId) :
    ReferencesSound (s.discardMany ns) := by
  induction ns generalizing s with
  | nil => exact h
  | cons n ns ih => exact ih (h.discardOne n)

/-- Closing an inbound message and returning a reservation keep every reference (R33, R157). -/
theorem ReferencesSound.closeInbound {s : State} (h : ReferencesSound s) (x : LinkId) :
    ReferencesSound (s.closeInbound x) := by
  unfold State.closeInbound
  split
  · exact (sameFiles_setLink (by rfl)).references h
  · exact (sameFiles_setLink (by rfl)).references (h.discardOne _)

theorem ReferencesSound.returnAll {s : State} (h : ReferencesSound s) (x : LinkId) :
    ReferencesSound (s.returnAll x) := by
  have hu : SameFiles s ((s.setFree (s.free ++ (s.link x).reserved)).setUsed (.link x)
      (s.used (.link x) - (s.link x).reserved.length)) :=
    ⟨fun _ => rfl, fun _ => rfl, fun _ => queueOf_congr rfl rfl _, fun _ => rfl, fun _ => rfl⟩
  exact (sameFiles_setLink (by rfl)).references (hu.references h)

end Sys2Proof.Safety
end

section
/-! SUPPORT. What an event at the accounts leaves of records, queues, ports and links; and the link's changes of state as
chains of moves. -/

namespace Sys2Proof.Safety

open Sys2Proof.Machine

/-! ### What an event at the accounts leaves -/

section
variable {s t : State} (h : OnlyAccounts s t)
include h

theorem OnlyAccounts.record (n : RecId) : t.record n = s.record n := by rw [h.rest]; rfl
theorem OnlyAccounts.slot (p : Party) : t.slot p = s.slot p := by rw [h.rest]; rfl
theorem OnlyAccounts.qclass (q : QueueId) : t.qclass q = s.qclass q := by rw [h.rest]; rfl
theorem OnlyAccounts.uq : t.uq = s.uq := by rw [h.rest]
theorem OnlyAccounts.queueOf (u : Target) : queueOf t u = queueOf s u :=
  queueOf_congr (by rw [h.rest]) (by rw [h.rest]) u
theorem OnlyAccounts.reservedFor (u : Target) : reservedFor t u = reservedFor s u :=
  reservedFor_congr (by rw [h.rest]) (by rw [h.rest]) u

/-- A link after the event differs in its reserved list and its pending GRANTs alone. -/
theorem OnlyAccounts.link (x : LinkId) :
    t.link x = { s.link x with reserved := (t.link x).reserved, pendingGrants := (t.link x).pendingGrants } := by
  obtain ⟨taken, -, hl⟩ := h.cells
  obtain ⟨e, -⟩ := hl x
  rw [e]

/-- A port after the event differs in its watch, its host set and the late raises of its snapshot alone. -/
theorem OnlyAccounts.port (k : PortId) :
    t.port k =
        { s.port k with
          watch := (t.port k).watch, hostSet := (t.port k).hostSet, snapshot := (t.port k).snapshot } := by
  obtain ⟨p, hp, e⟩ := h.ports k
  rw [e]
  rcases hp with rfl | ⟨-, rfl⟩ <;> split <;> rfl

theorem OnlyAccounts.loan (k : PortId) : (t.port k).loan = (s.port k).loan := by rw [h.port k]
theorem OnlyAccounts.phase (k : PortId) : (t.port k).phase = (s.port k).phase := by rw [h.port k]
theorem OnlyAccounts.tx (k : PortId) : (t.port k).tx = (s.port k).tx := by rw [h.port k]
theorem OnlyAccounts.sending (x : LinkId) : (t.link x).sending = (s.link x).sending := by rw [h.link x]
theorem OnlyAccounts.state (x : LinkId) : (t.link x).state = (s.link x).state := by rw [h.link x]
theorem OnlyAccounts.ctrl (x : LinkId) : (t.link x).ctrl = (s.link x).ctrl := by rw [h.link x]
theorem OnlyAccounts.headerDone (x : LinkId) : (t.link x).headerDone = (s.link x).headerDone := by rw [h.link x]; rfl

/-- An event at the accounts keeps every reference (R9, R106). -/
theorem OnlyAccounts.references (hs : ReferencesSound s) : ReferencesSound t where
  slots := by simpa only [h.slot, h.record] using hs.slots
  queues := by simpa only [h.queueOf, h.record] using hs.queues
  once := by simpa only [h.queueOf] using hs.once
  loans := by simpa only [h.queueOf, h.record, h.loan] using hs.loans
  loansApart := by simpa only [h.loan] using hs.loansApart
  sendings := by simpa only [h.sending, h.record, h.qclass] using hs.sendings

end

/-! ### The inbound message and the reservation -/

theorem LinkLaws.closed {l : Link} (h : LinkLaws l) : LinkLaws { l with isOpen := false, hdr := [] } :=
  ⟨h.ctrl, h.disabled, h.silence, h.holdTimer, h.credit, h.counts, h.reserved,
    fun c => let ⟨h1, h2, h3, h4, _⟩ := h.inactive c; ⟨h1, h2, h3, h4, rfl⟩, ⟨fun _ => rfl, fun c => by cases c⟩, h.sending⟩

/-- The records after the inbound message of a link is closed. -/
theorem closeInbound_record (s : State) (x : LinkId) (m : RecId) :
    (s.closeInbound x).record m = if s.slot (.link x) = some m then none else s.record m := by
  cases hs : s.slot (.link x) with
  | none => simp [State.closeInbound, hs]
  | some n => simp [State.closeInbound, hs, State.discardOne_record]

/-- The link after its inbound message is closed: its sending record is given up only with the record discarded. -/
theorem closeInbound_link (s : State) (x : LinkId) :
    ∃ o, (s.closeInbound x).link x = { s.link x with isOpen := false, hdr := [], sending := o } ∧
      (o = (s.link x).sending ∨ o = none) := by
  cases hs : s.slot (.link x) with
  | none => exact ⟨_, by simp [State.closeInbound, hs], .inl rfl⟩
  | some n =>
    cases hr : s.record n with
    | none => exact ⟨_, by simp [State.closeInbound, hs, State.discardOne_none hr], .inl rfl⟩
    | some r =>
      have e := discardOne_link s n x (by simp [hr])
      refine ⟨((s.link x).dropSendingOf n).sending, ?_, ?_⟩
      · simp only [State.closeInbound, hs, State.setLink_link, if_true, e, Link.dropSendingOf]
        split <;> rfl
      · unfold Link.dropSendingOf
        split
        · exact .inr rfl
        · exact .inl rfl

section
variable {G : Prop} {P : Option Party} {s : State} {x : LinkId}

theorem moves_closeInbound (hP : P = some (.link x))
    (slots : G → ∀ n, s.slot (.link x) = some n →
      ∃ r, s.record n = some r ∧ r.origin = .link x ∧ r.state = .assembling) : Moves G P s (s.closeInbound x) := by
  have close (u : State) : Moves G P u (u.setLink x { u.link x with isOpen := false, hdr := [] }) :=
    (Move.link x { u.link x with isOpen := false, hdr := [] } rfl (.inl rfl) LinkLaws.closed id (.inl hP)
      fun _ h => h).moves
  unfold State.closeInbound
  split
  · exact close s
  · rename_i n hn
    refine (Move.discard n fun g r hr _ => ?_).moves.trans (close _)
    obtain ⟨r', hr', ho, -⟩ := slots g n hn
    rw [hr] at hr'
    cases hr'
    rw [hP, ho]

theorem moves_returnAll (s : State) (x : LinkId) : Moves G P s (s.returnAll x) := (Move.returnAll x).moves

/-! ### The sending record at a fault -/

/-- The link after the fate of its sending record at a fault: it names none (R16). -/
theorem faultSending_link (s : State) (x : LinkId) :
    ((s.faultSending x).1.link x) = { s.link x with sending := none } := by
  unfold State.faultSending
  split
  · rename_i h; simp [← h]
  · rename_i sd h
    simp only
    split
    · simp
    · rename_i r hr
      split
      · simp
      · split
        · rw [State.enqueue_rest, State.unqueue_rest]
          exact (State.setLink_link s x _ x).trans (if_pos rfl)
        · refine Eq.trans (b := ((s.setLink x { s.link x with sending := none }).discardOne sd.recId).link x) rfl ?_
          rw [discardOne_link _ _ _ (by simp [hr])]
          simp [Link.dropSendingOf]

/-- A sending record that is discarded need not be given up first (R19). -/
theorem discardOne_sending {sd : Sending} (hs : (s.link x).sending = some sd) (hr : s.record sd.recId ≠ none) (due : Bool)
    (sym : Option Symbol) :
    (s.setLink x { s.link x with sending := none, abmDue := due, lastSymbol := sym }).discardOne sd.recId =
      (s.discardOne sd.recId).setLink x
        { (s.discardOne sd.recId).link x with abmDue := due, lastSymbol := sym } := by
  rw [discardOne_setLink _ _ _ _ hr, discardOne_link _ _ _ hr]
  simp [Link.dropSendingOf, hs]

theorem moves_faultSending (refs : G → ReferencesSound s) : Moves G P s (s.faultSending x).1 := by
  unfold State.faultSending
  split
  · exact .refl
  · rename_i sd h
    simp only
    split
    · rename_i hr
      refine (Move.link x { s.link x with sending := none } rfl (.inr ⟨rfl, fun sd' h' => ?_⟩)
        (fun hl => hl.dropSending (s.link x).abmDue) id (.inr rfl) fun _ _ _ => rfl).moves
      rw [h] at h'
      cases h'
      exact hr
    · rename_i r hr
      split
      · rename_i hlt
        exact (Move.requeue x sd r (r.resends + 1) (s.link x).abmDue h hr (.inr ⟨rfl, hlt⟩)).moves
      · split
        · rename_i hu
          exact (Move.undeliver x sd r h hr hu).moves.trans (moves_raiseMgr _ _)
        · have e := discardOne_sending h (by simp [hr]) (s.link x).abmDue (s.link x).lastSymbol
          have e' : (s.discardOne sd.recId).setLink x
              { (s.discardOne sd.recId).link x with
                abmDue := (s.link x).abmDue, lastSymbol := (s.link x).lastSymbol } = s.discardOne sd.recId := by
            have hl := discardOne_link s sd.recId x (by simp [hr])
            simp only [Link.dropSendingOf, h, Option.map_some, if_true] at hl
            conv_rhs => rw [← State.setLink_self (s.discardOne sd.recId) x]
            rw [hl]
          rw [e'] at e
          have place : G → ∀ r', s.record sd.recId = some r' → r'.state = .assembling → P = some r'.origin := by
            intro g r' hr' hst
            obtain ⟨⟨r'', h1, h2⟩, -⟩ := (refs g).sendings x sd h
            rw [hr'] at h1
            cases h1
            rw [hst] at h2
            cases h2
          refine Relation.ReflTransGen.trans ?_ (moves_raiseMgr (G := G) (P := P) _ .undeliverableDropped)
          have := (Move.discard (P := P) sd.recId place).moves
          rwa [← e] at this

/-! ### A fault -/

theorem LinkLaws.toHold {l : Link} (h : LinkLaws l) (kind : LinkFault) (hs : l.state = .start ∨ l.state = .active)
    (h1 : l.reserved = []) (h2 : l.pendingGrants = 0) (h3 : l.isOpen = false) (h4 : l.sending = none) :
    LinkLaws (l.toHold kind) where
  ctrl := h.ctrl
  disabled c := by
    have := h.disabled c
    rcases hs with e | e <;> rw [e] at this <;> cases this
  silence := ⟨fun c => by simp [Link.toHold] at c, fun c => by simp [Link.toHold] at c⟩
  holdTimer := ⟨fun _ => rfl, fun _ => rfl⟩
  credit := Nat.zero_le _
  counts := ⟨h.counts.1, Nat.zero_le _, h.counts.2.2⟩
  reserved := h.reserved
  inactive _ := ⟨rfl, h1, h2, rfl, h3⟩
  header := h.header
  sending sd hsd := by
    have : l.sending = some sd := hsd
    rw [h4] at this
    cases this

theorem moves_raiseDown (s : State) (x : LinkId) (was : LinkState) : Moves G P s (s.raiseDown x was) := by
  unfold State.raiseDown
  split
  · exact moves_raiseMgr s _
  · exact .refl

theorem moves_leaveByFault (hP : P = some (.link x)) (refs : G → ReferencesSound s) (kind : LinkFault)
    (hs : (s.link x).state = .start ∨ (s.link x).state = .active) : Moves G P s (s.leaveByFault x kind) := by
  obtain ⟨o, hl, -⟩ := closeInbound_link s x
  have hf := faultSending_link ((s.closeInbound x).returnAll x) x
  have hr : ((s.closeInbound x).returnAll x).link x =
      { s.link x with isOpen := false, hdr := [], sending := o, reserved := [], pendingGrants := 0 } := by
    simp [State.returnAll, hl]
  rw [hr] at hf
  have hold (u : State) (hu : u.link x = { s.link x with
      isOpen := false, hdr := [], sending := none, reserved := [], pendingGrants := 0 }) :
      Moves G P u (u.setLink x ((u.link x).toHold kind)) := by
    refine (Move.link x ((u.link x).toHold kind) rfl (.inl rfl) (fun h => ?_) id (.inl hP)
      fun _ _ c => by simp [Link.toHold] at c).moves
    exact h.toHold kind (by rw [hu]; exact hs) (by rw [hu]) (by rw [hu]) (by rw [hu]) (by rw [hu])
  unfold State.leaveByFault
  exact (((((moves_closeInbound hP fun g n => (refs g).slots _ n).trans (moves_returnAll _ x)).trans
    (moves_faultSending fun g => ((refs g).closeInbound x).returnAll x)).trans
    (hold _ hf)).trans (moves_raiseDown _ x _)).trans (moves_passOn _ _ _)

end

end Sys2Proof.Safety
end

section
/-! SUPPORT. What a party keeps between its slot and its transaction or message; and a link's faults, disables and entries as
chains of moves that leave this in agreement. -/

namespace Sys2Proof.Safety

open Sys2Proof.Machine

/-! ### A party's slot and its transaction or message -/

/-- R101, R173: the slot of a party holds a record exactly while its POST fills one, or its message has its header. -/
def Agrees (s : State) : Party → Prop
  | .host k => s.slot (.host k) ≠ none ↔ (s.port k).phase = .filling
  | .link x => s.slot (.link x) ≠ none ↔ (s.link x).headerDone = true

theorem slotsOwned_iff {s : State} : SlotsOwned s ↔ ∀ p, Agrees s p := by
  constructor
  · rintro ⟨h1, h2⟩ (k | x)
    · exact h1 k
    · exact h2 x
  · exact fun h => ⟨fun k => h (.host k), fun x => h (.link x)⟩

/-- What the agreement reads of the state. -/
theorem Agrees.congr {s t : State} {p : Party} (h : Agrees s p) (hs : t.slot p = s.slot p)
    (hp : ∀ k, p = .host k → (t.port k).phase = (s.port k).phase)
    (hx : ∀ x, p = .link x → (t.link x).headerDone = (s.link x).headerDone) : Agrees t p := by
  cases p with
  | host k => simpa only [Agrees, hs, hp k rfl] using h
  | link x => simpa only [Agrees, hs, hx x rfl] using h

theorem OnlyAccounts.agrees {s t : State} (h : OnlyAccounts s t) {p : Party} (hs : Agrees s p) : Agrees t p :=
  hs.congr (h.slot p) (fun k _ => h.phase k) fun x _ => h.headerDone x

theorem Agrees.of_closed {s : State} {x : LinkId} (h1 : s.slot (.link x) = none) (h2 : (s.link x).isOpen = false) :
    Agrees s (.link x) := by
  simp [Agrees, h1, h2, Link.headerDone]

theorem Agrees.of_idle {s : State} {k : PortId} (h1 : s.slot (.host k) = none) (h2 : (s.port k).phase ≠ .filling) :
    Agrees s (.host k) := by
  simp [Agrees, h1, h2]

/-- What a step from `s` to `t` does: a chain of moves, at whose end the party that the step handles agrees again. -/
def Does (s t : State) : Prop := ∃ P, Moves (Sound s) P s t ∧ (Sound s → ∀ p, P = some p → Agrees t p)

theorem Does.quiet {s t : State} (h : Moves (Sound s) none s t) : Does s t := ⟨none, h, fun _ _ c => by cases c⟩

theorem Does.handles {s t : State} {p : Party} (h : Moves (Sound s) (some p) s t) (ha : Sound s → Agrees t p) : Does s t :=
  ⟨some p, h, fun hs q hq => by cases hq; exact ha hs⟩

/-- Every command ends with the reserve ones left from before (R28). -/
theorem Does.resume {s t : State} (h : Does s t) : Does s t.resume := by
  obtain ⟨P, hm, ha⟩ := h
  exact ⟨P, hm.trans (moves_resume t), fun hs p hp => (onlyAccounts_resume t).agrees (ha hs p hp)⟩

/-! ### Slots -/

/-- A slot emptied by a discard stays so. -/
theorem discardOne_slot_none {s : State} {p : Party} (h : s.slot p = none) (n : RecId) :
    (s.discardOne n).slot p = none := by
  cases hr : s.record n with
  | none => rwa [State.discardOne_none hr]
  | some r =>
    rw [discardOne_slot hr, h]
    split <;> rfl

/-- The discard of the record in a slot empties it. -/
theorem ReferencesSound.discardOne_slot {s : State} (h : ReferencesSound s) {p : Party} {n : RecId}
    (hs : s.slot p = some n) : (s.discardOne n).slot p = none := by
  obtain ⟨r, hr, ho, hst⟩ := h.slots p n hs
  rw [Safety.discardOne_slot hr, if_pos ⟨hst, ho.symm⟩]

/-- The inbound message closed empties the link's slot, if the slot names a record assembling there. -/
theorem closeInbound_slot_none {s : State} {x : LinkId}
    (h : ∀ n, s.slot (.link x) = some n → ∃ r, s.record n = some r ∧ r.origin = .link x ∧ r.state = .assembling) :
    (s.closeInbound x).slot (.link x) = none := by
  cases hs : s.slot (.link x) with
  | none => simp [State.closeInbound, hs]
  | some n =>
    obtain ⟨r, hr, ho, hst⟩ := h n hs
    have := Safety.discardOne_slot hr (.link x)
    rw [if_pos ⟨hst, ho.symm⟩] at this
    simpa [State.closeInbound, hs] using this

theorem ReferencesSound.closeInbound_slot {s : State} (h : ReferencesSound s) (x : LinkId) :
    (s.closeInbound x).slot (.link x) = none := closeInbound_slot_none fun n hn => h.slots _ n hn

theorem faultSending_slot {s : State} {p : Party} (h : s.slot p = none) (x : LinkId) :
    (s.faultSending x).1.slot p = none := by
  unfold State.faultSending
  split
  · exact h
  · simp only
    split
    · exact h
    · split
      · exact h
      · split
        · rw [State.enqueue_rest, State.unqueue_rest]; exact h
        · exact discardOne_slot_none (s := s.setLink x { s.link x with sending := none }) h _

/-! ### A fault -/

theorem raiseDown_slot (s : State) (x : LinkId) (was : LinkState) (p : Party) :
    (s.raiseDown x was).slot p = s.slot p ∧ (s.raiseDown x was).links = s.links := by
  unfold State.raiseDown
  split <;> exact ⟨rfl, rfl⟩

theorem leaveByFault_agrees {s : State} (h : ReferencesSound s) (x : LinkId) (kind : LinkFault) :
    Agrees (s.leaveByFault x kind) (.link x) := by
  have hslot : ((s.closeInbound x).returnAll x).slot (.link x) = none := h.closeInbound_slot x
  have hf := faultSending_link ((s.closeInbound x).returnAll x) x
  obtain ⟨o, hl, -⟩ := closeInbound_link s x
  unfold State.leaveByFault
  refine (onlyAccounts_passOn _ _ _).agrees (Agrees.of_closed ?_ ?_)
  · rw [(raiseDown_slot _ _ _ _).1]
    exact faultSending_slot hslot x
  · rw [State.link_congr (raiseDown_slot _ x _ (.link x)).2, State.setLink_link, if_pos rfl, hf]
    simp [Link.toHold, State.returnAll, hl]

section
variable {G : Prop} {s : State} {x : LinkId}

theorem moves_linkFault {P : Option Party} (hP : P = some (.link x)) (refs : G → ReferencesSound s) (kind : LinkFault) :
    Moves G P s (s.linkFault x kind) := by
  unfold State.linkFault
  split
  · rename_i hs
    have hf := onlyAccounts_finish s x
    refine (moves_finish s x).trans (moves_leaveByFault hP (fun g => hf.references (refs g)) kind ?_)
    rwa [hf.state]
  · exact .refl

theorem linkFault_agrees (h : ReferencesSound s) (kind : LinkFault) (ha : Agrees s (.link x)) :
    Agrees (s.linkFault x kind) (.link x) := by
  unfold State.linkFault
  split
  · exact leaveByFault_agrees ((onlyAccounts_finish s x).references h) x kind
  · exact ha

theorem does_linkFault (s : State) (x : LinkId) (kind : LinkFault) : Does s (s.linkFault x kind) :=
  .handles (moves_linkFault rfl (fun h => h.store.references) kind)
    fun h => linkFault_agrees h.store.references kind (slotsOwned_iff.mp h.store.slots _)

/-! ### Entries -/

theorem LinkLaws.enterActive {l : Link} (h : LinkLaws l) (hs : l.state = .start) (n : Nat) (seen : Bool)
    (sym : Option Symbol) (hn : n ≤ 8) :
    LinkLaws
      { l with
        state := .active, settle := 8, silence := true, fillsSent := n, fillSeen := seen, lastSymbol := sym } where
  ctrl := h.ctrl
  disabled c := by
    have := h.disabled c
    rw [hs] at this
    cases this
  silence := ⟨fun _ => rfl, fun _ => rfl⟩
  holdTimer := by
    have := h.holdTimer
    rw [hs] at this
    simpa using this
  credit := h.credit
  counts := ⟨hn, le_refl _, h.counts.2.2⟩
  reserved := h.reserved
  inactive c := absurd rfl c
  header := h.header
  sending _ _ := .inl rfl

theorem moves_enterActive {P : Option Party} (hs : (s.link x).state = .start) :
    Moves G P s (s.enterActive x) :=
  ((moves_setLink (s := s) (x := x) (by rfl) (by rfl) (by exact id) (by rfl)
    (fun h => by exact h.enterActive hs _ _ _ h.counts.1) (by exact id)).trans (moves_raiseMgr _ _)).trans (moves_event _ _ _)

theorem LinkLaws.toStart {l : Link} (h : LinkLaws l) (hs : l.state = .off ∨ l.state = .hold)
    (he : l.ctrl.enable = true) : LinkLaws l.toStart := by
  have hi : l.state ≠ .active := by rcases hs with e | e <;> rw [e] <;> simp
  have hsil : l.silence = false := by
    cases hc : l.silence with
    | false => rfl
    | true => exact absurd (h.silence.mp hc) hi
  obtain ⟨h1, h2, h3, h4, h5⟩ := h.inactive hi
  refine ⟨h.ctrl, fun c => ?_, ?_, ?_, h.credit, ⟨Nat.zero_le _, h.counts.2.1, h.ctrl.1⟩, h.reserved,
    fun _ => ⟨h1, h2, h3, h4, h5⟩, h.header, fun sd hsd => ?_⟩
  · have : l.ctrl.enable = false := c
    rw [he] at this
    cases this
  · simp [Link.toStart, hsil]
  · simp [Link.toStart]
  · exact .inr ((h.sending sd hsd).resolve_left hi)

/-! ### A disable -/

theorem disableSending_setCtrl (s : State) (x : LinkId) (c : LinkCtrl) :
    (s.setCtrl x c).disableSending x = (s.disableSending x).setCtrl x c := by
  unfold State.disableSending
  simp only [State.setCtrl_link, if_pos]
  split
  · rfl
  · split
    · rfl
    · simp [State.setCtrl, State.setRecState_spec, State.setLink, State.setRecord, State.record, State.link]

theorem closeInbound_setCtrl (s : State) (x : LinkId) (c : LinkCtrl) :
    (s.setCtrl x c).closeInbound x = (s.closeInbound x).setCtrl x c := by
  unfold State.closeInbound
  have hs : (s.setCtrl x c).slot (.link x) = s.slot (.link x) := rfl
  rw [hs]
  cases s.slot (.link x) with
  | none => simp [State.setCtrl]
  | some n =>
    simp only
    cases hr : s.record n with
    | none =>
      rw [State.discardOne_none hr, State.discardOne_none (by exact hr)]
      simp [State.setCtrl]
    | some r =>
      have hn : s.record n ≠ none := by simp [hr]
      have e : (s.setCtrl x c).discardOne n = (s.discardOne n).setCtrl x c := by
        rw [State.setCtrl, discardOne_setLink s x _ n hn, State.setCtrl, discardOne_link s n x hn]
        simp only [dropSendingOf_eq]
      rw [e]
      simp [State.setCtrl]

theorem returnAll_setCtrl (s : State) (x : LinkId) (c : LinkCtrl) :
    (s.setCtrl x c).returnAll x = (s.returnAll x).setCtrl x c := by
  simp only [State.returnAll, State.setCtrl, State.setLink_link, if_pos, State.setLink_setLink]
  simp [State.setLink, State.setUsed, State.setFree, State.used, State.link]

/-- After the sending record is returned at a disable, what the link still names has its EOM begun (R160, R171). -/
theorem disableSending_link (s : State) (x : LinkId) :
    ∃ o due, (s.disableSending x).link x = { s.link x with sending := o, abmDue := due } ∧
      ∀ sd, o = some sd → sd.progress = .eomBegun := by
  unfold State.disableSending
  split
  · rename_i h
    exact ⟨none, (s.link x).abmDue, by simp [← h], fun _ c => by cases c⟩
  · rename_i sd h
    split
    · rename_i hp
      refine ⟨some sd, (s.link x).abmDue, by simp [← h], fun sd' c => ?_⟩
      cases c
      exact hp
    · exact ⟨none, true, by simp [State.setRecState_spec], fun _ c => by cases c⟩

theorem disableSending_slot (s : State) (x : LinkId) (p : Party) : (s.disableSending x).slot p = s.slot p := by
  unfold State.disableSending
  split
  · rfl
  · split
    · rfl
    · simp [State.setRecState_spec]

theorem moves_disableSending {P : Option Party} (s : State) (x : LinkId) : Moves G P s (s.disableSending x) := by
  unfold State.disableSending
  split
  · exact .refl
  · rename_i sd h
    split
    · exact .refl
    · unfold State.setRecState
      split
      · rename_i hr
        refine (Move.link x { s.link x with sending := none, abmDue := true } rfl (.inr ⟨rfl, fun sd' h' => ?_⟩)
          (fun hl => hl.dropSending true) id (.inr rfl) fun _ _ _ => rfl).moves
        rw [h] at h'
        cases h'
        exact hr
      · rename_i r hr
        exact (Move.requeue x sd r r.resends true h hr (.inl rfl)).moves

end

/-- A disable of an ACTIVE link with LINKCTRL written before it is the same with LINKCTRL written in the one change to OFF. -/
def disabledActive (s : State) (x : LinkId) (c : LinkCtrl) : State :=
  let w := ((s.disableSending x).closeInbound x).returnAll x
  w.setLink x { w.link x with ctrl := c, state := .off, credit := 0, settle := 0, silence := false }

theorem disabledActive_eq (s : State) (x : LinkId) (c : LinkCtrl) :
    let s1 := (((s.setCtrl x c).disableSending x).closeInbound x).returnAll x
    s1.setLink x { s1.link x with state := .off, credit := 0, settle := 0, silence := false } =
      disabledActive s x c := by
  simp only [disableSending_setCtrl, closeInbound_setCtrl, returnAll_setCtrl, disabledActive]
  simp [State.setCtrl]

/-- The link then names at most a record whose EOM has begun, and holds nothing. -/
theorem disabledActive_link (s : State) (x : LinkId) :
    ∃ o due, (((s.disableSending x).closeInbound x).returnAll x).link x =
        { s.link x with
          sending := o, abmDue := due, isOpen := false, hdr := [], reserved := [], pendingGrants := 0 } ∧
      ∀ sd, o = some sd → sd.progress = .eomBegun := by
  obtain ⟨o, due, h1, h2⟩ := disableSending_link s x
  obtain ⟨o', h3, h4⟩ := closeInbound_link (s.disableSending x) x
  refine ⟨o', due, by simp [State.returnAll, h3, h1], fun sd hsd => ?_⟩
  rcases h4 with e | e
  · rw [e, h1] at hsd
    exact h2 sd hsd
  · rw [e] at hsd
    cases hsd

theorem LinkLaws.toOff {l : Link} (h : LinkLaws l) {c : LinkCtrl} (hc : CtrlLegal c) (ha : l.state ≠ .hold)
    (h1 : l.reserved = []) (h2 : l.pendingGrants = 0) (h3 : l.isOpen = false)
    (h4 : ∀ sd, l.sending = some sd → sd.progress = .eomBegun) :
    LinkLaws { l with ctrl := c, state := .off, credit := 0, settle := 0, silence := false } where
  ctrl := hc
  disabled _ := rfl
  silence := by simp
  holdTimer := by
    have := h.holdTimer
    simpa [ha] using this
  credit := Nat.zero_le _
  counts := ⟨h.counts.1, Nat.zero_le _, h.counts.2.2⟩
  reserved := h.reserved
  inactive _ := ⟨rfl, h1, h2, rfl, h3⟩
  header := h.header
  sending sd hsd := .inr (h4 sd hsd)

theorem disableSending_files {s : State} (h : ReferencesSound s) (x : LinkId) :
    ∀ p n, s.slot p = some n → ∃ r, (s.disableSending x).record n = some r ∧ r.origin = p ∧ r.state = .assembling := by
  intro p n hn
  obtain ⟨r, hr, ho, hst⟩ := h.slots p n hn
  unfold State.disableSending
  split
  · exact ⟨r, hr, ho, hst⟩
  · rename_i sd hsd
    split
    · exact ⟨r, hr, ho, hst⟩
    · refine ⟨r, ?_, ho, hst⟩
      obtain ⟨⟨r', hr', hst'⟩, -⟩ := h.sendings x sd hsd
      have hne : sd.recId ≠ n := by
        rintro rfl
        rw [hr] at hr'
        cases hr'
        rw [hst] at hst'
        cases hst'
      simp [State.setRecState_spec, hne, hr]

section
variable {G : Prop} {P : Option Party} {s : State} {x : LinkId}

theorem moves_disabledActive (hP : P = some (.link x)) (refs : G → ReferencesSound s) {c : LinkCtrl} (hc : CtrlLegal c)
    (ha : (s.link x).state = .active) : Moves G P s (disabledActive s x c) := by
  obtain ⟨o, due, hl, ho⟩ := disabledActive_link s x
  refine (((moves_disableSending s x).trans (moves_closeInbound hP fun g n hn => ?_)).trans
    (moves_returnAll _ x)).trans (Move.link x _ (by rfl) (.inl (by rfl)) (fun h => ?_) (by exact fun _ => hc) (.inl hP) ?_).moves
  · rw [disableSending_slot] at hn
    exact disableSending_files (refs g) x _ _ hn
  · refine h.toOff hc ?_ ?_ ?_ ?_ ?_ <;> rw [hl]
    · rw [ha]; simp
    · exact ho
  · exact fun _ h => h

end

end Sys2Proof.Safety
end

section
/-! SUPPORT. What a step of an in byte says of the port's transaction; the commands of the host ports as chains of moves. -/

namespace Sys2Proof.Safety

open Sys2Proof.Machine

/-! ### The transaction at a step of an in byte -/

/-- The transaction in which an in byte is a given step; `plain` is of several. -/
def stepTx : ByteStep → Option TxState
  | .ignored => some .idle
  | .plain => none
  | .undefinedCode | .nop | .release | .events | .query | .claim | .resign | .portReset | .restart => some .opened
  | .post | .payload => some (.running .post)
  | .fetch | .fetchUq => some (.running .fetch)
  | .mask | .managerMask => some (.running .mask)
  | .readItem => some (.running .readItem)
  | .writeItem | .routeWrite | .portaddrWrite | .guaranteeWrite | .limitWrite | .depthWrite | .runlimitWrite
  | .posttimeoutWrite | .lowmarkWrite | .linkEnable | .linkDisable => some (.running .writeItem)
  | .fence => some (.running .fence)
  | .unfence => some (.running .unfence)
  | .purge => some (.running .purge)
  | .drain => some (.running .drain)

theorem stepTx_codeStep (b : Byte) : ∀ t, stepTx (codeStep b) = some t → t = .opened := by
  intro t h
  unfold codeStep at h
  cases hd : decodeRequest b with
  | none => rw [hd] at h; cases h; rfl
  | some r =>
    rw [hd] at h
    cases r <;> cases h <;> rfl

theorem stepTx_writeStep (s : State) (w : ItemWrite) : stepTx (s.writeStep w) = some (.running .writeItem) := by
  unfold State.writeStep State.linkCtrlStep
  repeat' split
  all_goals rfl

theorem stepTx_requestStep (s : State) (p : Port) (b : Byte) (r : Request) :
    ∀ t, stepTx (s.requestStep p b r) = some t → t = .running r := by
  intro t h
  cases r with
  | post =>
    simp only [State.requestStep] at h
    cases hp : p.phase with
    | header =>
      simp only [hp] at h
      split at h <;> cases h
      rfl
    | filling => simp only [hp] at h; cases h; rfl
    | refused => simp only [hp] at h; cases h
    | noPost => simp only [hp] at h; cases h
  | fetch =>
    simp only [State.requestStep] at h
    split at h
    · split at h <;> cases h <;> rfl
    · cases h
  | mask =>
    simp only [State.requestStep] at h
    split at h
    · cases h; rfl
    · split at h <;> cases h
      rfl
  | writeItem =>
    simp only [State.requestStep] at h
    split at h
    · rw [stepTx_writeStep] at h; cases h; rfl
    · cases h
  | readItem | fence | unfence | purge | drain =>
    simp only [State.requestStep] at h
    split at h <;> cases h
    rfl
  | nop | release | events | query | claim | resign | portReset | restart => cases h

/-- The transaction of a port at which an in byte is a given step (5.3). -/
theorem byteStep_tx {s : State} {k : PortId} {b : Byte} {st : ByteStep} (h : s.byteStep k b = st) {t : TxState}
    (ht : stepTx st = some t) : (s.port k).tx = t := by
  subst h
  unfold State.byteStep at ht
  cases hp : (s.port k).tx with
  | idle => rw [hp] at ht; cases ht; rfl
  | opened => rw [hp] at ht; exact (stepTx_codeStep b t ht).symm
  | running r => rw [hp] at ht; exact (stepTx_requestStep s _ b r t ht).symm
  | ended => rw [hp] at ht; cases ht

/-- In byte 5 of a POST: the POST is in HEADER (R99). -/
theorem byteStep_post {s : State} {k : PortId} {b : Byte} (h : s.byteStep k b = .post) :
    (s.port k).tx = .running .post ∧ (s.port k).phase = .header ∧ (s.port k).inCount = 5 := by
  have ht := byteStep_tx h rfl
  refine ⟨ht, ?_⟩
  simp only [State.byteStep, ht, State.requestStep] at h
  cases hp : (s.port k).phase with
  | header =>
    rw [hp] at h
    simp only at h
    split at h
    · exact ⟨rfl, by assumption⟩
    · cases h
  | filling | refused | noPost => rw [hp] at h; cases h

/-- A payload byte: the POST is in FILLING (R102). -/
theorem byteStep_payload {s : State} {k : PortId} {b : Byte} (h : s.byteStep k b = .payload) :
    (s.port k).tx = .running .post ∧ (s.port k).phase = .filling := by
  have ht := byteStep_tx h rfl
  refine ⟨ht, ?_⟩
  simp only [State.byteStep, ht, State.requestStep] at h
  cases hp : (s.port k).phase with
  | filling => rfl
  | header => rw [hp] at h; simp only at h; split at h <;> cases h
  | refused | noPost => rw [hp] at h; cases h

/-- In byte 6 of a WRITE ITEM: the step is that of its item. -/
theorem byteStep_write {s : State} {k : PortId} {b : Byte} {st : ByteStep} (h : s.byteStep k b = st)
    (ht : stepTx st = some (.running .writeItem)) : s.writeStep ((s.port k).itemWrite b) = st := by
  have htx := byteStep_tx h ht
  simp only [State.byteStep, htx, State.requestStep] at h
  split at h
  · exact h
  · subst h; cases ht

/-! ### A port no POST of which is in FILLING -/

theorem PortLaws.not_filling {p : Port} (h : PortLaws p) (ht : p.tx ≠ .running .post) : p.phase ≠ .filling := by
  intro c
  exact ht (h.phase (by rw [c]; simp))

section
variable {G : Prop} {P : Option Party} {s : State} {k : PortId}

/-- The end of a transaction at the rise of select (R85). -/
theorem moves_closeTx (hp : P = some (.host k) ∨ (PortLaws (s.port k) → (s.port k).phase ≠ .filling)) :
    Moves G P s (s.setPort k (s.port k).closeTx) := by
  refine moves_setPort rfl (hp.imp_right fun h hl => ?_) fun h => ?_
  · have := h hl
    simp [Port.closeTx, this]
  · exact ⟨⟨fun _ => rfl, fun c => absurd rfl c, fun c => absurd rfl c, fun c => absurd rfl c, fun c => absurd rfl c⟩,
      h.unfenced, h.uqLoan, fun _ c => by cases c⟩

/-- A discard leaves the transaction of a port (R19). -/
theorem discard_port (s : State) (n : RecId) (k : PortId) :
    ((s.discard n).port k).tx = (s.port k).tx ∧ ((s.discard n).port k).phase = (s.port k).phase ∧
      ((s.discard n).port k).timer = (s.port k).timer := by
  have h := (State.discard_spec s n).port k
  have e : ((s.discardOne n).port k).tx = (s.port k).tx ∧ ((s.discardOne n).port k).phase = (s.port k).phase ∧
      ((s.discardOne n).port k).timer = (s.port k).timer := by
    cases hr : s.record n with
    | none => rw [State.discardOne_none hr]; exact ⟨rfl, rfl, rfl⟩
    | some r =>
      rw [discardOne_port s n k (by simp [hr])]
      unfold Port.dropLoanOf
      split <;> exact ⟨rfl, rfl, rfl⟩
  rw [h]
  exact e

/-- A loaned record is not assembling. -/
theorem ReferencesSound.loan_place {s : State} (h : ReferencesSound s) {k : PortId} {l : Loan}
    (hl : (s.port k).loan = some l) {r : Record} (hr : s.record l.recId = some r) : r.state ≠ .assembling := by
  obtain ⟨⟨r', h1, h2⟩, -⟩ := h.loans k l hl
  rw [hr] at h1
  cases h1
  rw [h2]
  simp

/-! ### SELECT_FALL and SELECT_RISE -/

theorem does_selectFall {t : State} (h : execSelectFall k s = .next t) : Does s t := by
  unfold execSelectFall at h
  split at h
  · rename_i hs
    cases h
    refine Does.resume (.quiet (moves_setPort rfl (.inr fun hl => ?_) fun hp => ?_))
    · have := hl.not_filling (by rw [hl.idle hs]; simp)
      simp [Port.openTx, this]
    · exact ⟨⟨fun c => (by cases c), fun c => absurd rfl c, fun c => absurd rfl c, fun c => absurd rfl c,
        fun c => absurd rfl c⟩, hp.unfenced, hp.uqLoan, fun _ c => by cases c⟩
  · cases h; exact (Does.quiet .refl).resume

theorem commitEvent_slot (s : State) (t : Target) (p : Party) : (s.commitEvent t).slot p = s.slot p := by
  cases t with
  | queue q =>
    obtain ⟨d, c⟩ := q
    cases d with
    | host k => rfl
    | link x =>
      simp only [State.commitEvent]
      rcases s.transmitterChoose_cases x with h | ⟨m, c, k, -, -, -, -, -, h⟩ <;> rw [h]
      simp [State.setRecState_spec]
  | uq => rfl
  | drop => rfl

/-- A commit empties the slot of the record's origin (R67). -/
theorem commit_slot {n : RecId} {r : Record} (h : s.record n = some r) : (s.commit n).slot r.origin = none := by
  rw [State.commit_spec h, commitEvent_slot, State.enqueue_rest, State.releasePlace_rest]
  exact (State.setSlot_slot s r.origin none r.origin).trans (if_pos rfl)

/-- The end of a POST in FILLING empties the slot of its port (R103). -/
theorem abortPost_slot (h : ReferencesSound s) : (s.abortPost k).slot (.host k) = none := by
  cases hs : s.slot (.host k) with
  | none => simp [State.abortPost, hs]
  | some n =>
    have e : s.abortPost k = (s.discard n).raiseHost k .postAborted := by simp [State.abortPost, hs]
    rw [e]
    exact ((State.discard_spec s n).slot _).trans (h.discardOne_slot hs)

theorem closePost_slot (h : ReferencesSound s) : (s.closePost k).slot (.host k) = none := by
  cases hs : s.slot (.host k) with
  | none => simp [State.closePost, hs]
  | some n =>
    obtain ⟨r, hr, ho, -⟩ := h.slots _ _ hs
    simp only [State.closePost, hs, hr]
    split
    · rw [← ho]; exact commit_slot hr
    · exact abortPost_slot h

theorem moves_abortPost' (refs : G → ReferencesSound s) (hP : P = some (.host k)) : Moves G P s (s.abortPost k) :=
  moves_abortPost fun g n r hn hr _ => by
    obtain ⟨r', hr', ho, -⟩ := (refs g).slots _ _ hn
    rw [hr] at hr'
    cases hr'
    rw [hP, ho]

theorem moves_closePost (sound : G → Sound s) (hP : P = some (.host k)) : Moves G P s (s.closePost k) := by
  unfold State.closePost
  split
  · exact .refl
  · rename_i n hn
    split
    · exact .refl
    · rename_i r hr
      split
      · rename_i hf
        have at' (g : G) : r.origin = .host k := by
          obtain ⟨r', hr', ho, -⟩ := (sound g).store.references.slots _ _ hn
          rw [hr] at hr'
          cases hr'
          exact ho
        refine moves_commit hr hf (fun g => ⟨by rw [at' g, hn], by rw [hP, at' g]⟩) fun g c => ?_
        obtain ⟨-, x, hx⟩ := ((sound g).store.records n r hr).1.dropped c
        rw [at' g] at hx
        cases hx
      · exact moves_abortPost' (fun g => (sound g).store.references) hP

theorem moves_closeFetch (refs : G → ReferencesSound s) : Moves G P s (s.closeFetch k) := by
  unfold State.closeFetch
  split
  · rename_i l r hl hr
    split
    · exact moves_discard fun g r' hr' hst => absurd hst ((refs g).loan_place hl hr')
    · exact .refl
  · exact .refl

theorem closeFetch_tx (s : State) (k : PortId) : ((s.closeFetch k).port k).tx = (s.port k).tx := by
  unfold State.closeFetch
  split
  · split
    · exact (discard_port s _ k).1
    · rfl
  · rfl

/-- The manager set after the close of an EVENTS transaction that was shifted out in full (R124). -/
def clearedMgr (s : State) (sn : Snapshot) : Byte :=
  match sn.mgr with
  | none => s.mgrSet
  | some (part, late) => clearSnapshot s.mgrSet part late

/-- The port after the close of an EVENTS transaction that was shifted out in full (R124). -/
def clearedPort (p : Port) (sn : Snapshot) : Port :=
  Port.closeTx { p with hostSet := clearSnapshot p.hostSet sn.host sn.hostLate }

/-- The close of an EVENTS transaction clears the snapshot's kinds, or only closes (R124). -/
theorem closeEvents_cases (s : State) (k : PortId) :
    (s.closeEvents k).setPort k ((s.closeEvents k).port k).closeTx = s.setPort k (s.port k).closeTx ∨
      ∃ sn, (s.port k).snapshot = some sn ∧
        (s.closeEvents k).setPort k ((s.closeEvents k).port k).closeTx =
          { s.setPort k (clearedPort (s.port k) sn) with mgrSet := clearedMgr s sn } := by
  unfold State.closeEvents
  cases hsn : (s.port k).snapshot with
  | none => exact .inl rfl
  | some sn =>
    simp only
    split
    · refine .inr ⟨sn, rfl, ?_⟩
      cases hm : sn.mgr <;>
        simp only [State.setPort, State.port, vget_vset, if_true, vset_vset, clearedMgr, clearedPort, hm]
    · exact .inl rfl

/-- With the kinds of a snapshot cleared and the snapshot gone, every other snapshot's kinds are still set: at most one has a
manager part, the role holder's (R123, R124). -/
theorem PortsSound.clearEvents {s : State} {k : PortId} {sn : Snapshot} (h : PortsSound s)
    (hsn : (s.port k).snapshot = some sn) :
    PortsSound { s.setPort k (clearedPort (s.port k) sn) with mgrSet := clearedMgr s sn } := by
  obtain ⟨h1, h2⟩ := portsSound_iff.mp h
  refine portsSound_iff.mpr ⟨fun j => ?_, h2⟩
  refine (congrArg (PortSound _ j) (State.setPort_port s k (clearedPort (s.port k) sn) j)).mpr ?_
  split
  · rename_i e
    subst e
    exact ⟨⟨fun _ => rfl, fun c => absurd rfl c, fun c => absurd rfl c, fun c => absurd rfl c, fun c => absurd rfl c⟩,
      (h1 k).unfenced, (h1 k).uqLoan, fun _ c => by cases c⟩
  · rename_i e
    refine ⟨(h1 j).laws, (h1 j).unfenced, (h1 j).uqLoan, fun sn' hsn' => ?_⟩
    obtain ⟨g1, g2, g3⟩ := (h1 j).snapshot sn' hsn'
    refine ⟨g1, g2, fun part late hpl => ?_⟩
    obtain ⟨g4, g5, g6⟩ := g3 part late hpl
    have hnone : sn.mgr = none := by
      by_contra hc
      obtain ⟨⟨a, b⟩, hmg⟩ := Option.ne_none_iff_exists'.mp hc
      obtain ⟨-, -, c⟩ := (h1 k).snapshot sn hsn
      obtain ⟨c, -⟩ := c a b hmg
      exact e (Option.some.inj (c.symm.trans g4))
    have hmgr : clearedMgr s sn = s.mgrSet := by simp [clearedMgr, hnone]
    exact ⟨g4, by simpa only [hmgr] using g5, g6⟩

theorem moves_closeEvents (s : State) (k : PortId) (ht : (s.port k).tx = .running .events) :
    Moves G P s ((s.closeEvents k).setPort k ((s.closeEvents k).port k).closeTx) := by
  have unfilled (hl : PortLaws (s.port k)) : (s.port k).phase ≠ .filling := hl.not_filling (by rw [ht]; simp)
  rcases closeEvents_cases s k with e | ⟨sn, hsn, e⟩ <;> rw [e]
  · exact moves_closeTx (.inr unfilled)
  · refine (Move.closeEvents k (clearedPort (s.port k) sn) (clearedMgr s sn) rfl (fun hl => ?_)
      fun h => h.clearEvents hsn).moves
    simp [clearedPort, Port.closeTx, unfilled hl]

theorem does_selectRise {t : State} (h : execSelectRise k s = .next t) : Does s t := by
  unfold execSelectRise at h
  split at h
  swap
  · cases h; exact (Does.quiet .refl).resume
  cases h
  refine Does.resume ?_
  have quiet (ht : (s.port k).phase ≠ .filling) : Does s (s.setPort k (s.port k).closeTx) :=
    .quiet (moves_closeTx (.inr fun _ => ht))
  have other (ht : (s.port k).tx ≠ .running .post) : Does s (s.setPort k (s.port k).closeTx) :=
    .quiet (moves_closeTx (.inr fun hl => hl.not_filling ht))
  unfold State.closingAction
  split
  · rename_i ht
    split
    · refine .handles ((moves_closePost id rfl).trans (moves_closeTx (.inl rfl))) fun hs => Agrees.of_idle ?_ ?_
      · exact closePost_slot hs.store.references
      · simp [Port.closeTx]
    · rename_i hf
      exact quiet hf
  · rename_i ht
    refine .quiet ((moves_closeFetch fun hs => hs.store.references).trans
      (moves_closeTx (.inr fun hl => hl.not_filling (by rw [closeFetch_tx, ht]; simp))))
  · rename_i ht
    exact .quiet (moves_closeEvents s k ht)
  · rename_i h1 h2 h3
    exact other h1

/-! ### Requests taken at in byte 0, and the post timer -/

theorem does_undefinedRequestCode {t : State} {code : Byte} {early : Bool}
    (h : execUndefinedRequestCode k code early s = .next t) : Does s t := by
  unfold execUndefinedRequestCode at h
  split at h
  · rename_i hb
    cases h
    have ht : ((s.raiseHost k .protocol).port k).tx = .opened := by
      rw [State.raiseHost_port, if_pos rfl]
      exact byteStep_tx hb rfl
    exact Does.resume (.quiet (((moves_raiseHost s k _).trans (moves_endTx (by rw [ht]; simp)
      (.inr fun hl => hl.not_filling (by rw [ht]; simp)))).trans (moves_shift _ _ _ _)))
  · cases h; exact (Does.quiet .refl).resume

end

end Sys2Proof.Safety
end

section
/-! SUPPORT. The requests of the host ports but for posting, the items and the administrative ones, as chains of moves. -/

namespace Sys2Proof.Safety

open Sys2Proof.Machine

section
variable {G : Prop} {P : Option Party} {s t : State} {k : PortId} {b : Byte} {early : Bool}

/-- A command that is not due leaves the state to `resume` (log 3). -/
theorem does_idle (h : (.next s.resume : Host.Outcome State Fault Refusal) = .next t) : Does s t := by
  cases h
  exact (Does.quiet .refl).resume

/-- A request that ends in an answer: an out byte formed and then `resume`. -/
theorem does_answer {u : State} {code : Byte} (hu : Moves (Sound s) none s u)
    (h : (.next (u.shift k early code).resume : Host.Outcome State Fault Refusal) = .next t) : Does s t := by
  cases h
  exact (Does.quiet (hu.trans (moves_shift _ _ _ _))).resume

/-! ### POST_TIMEOUT, NOP and QUERY -/

theorem abortPost_port (s : State) (k : PortId) : ((s.abortPost k).port k).timer = (s.port k).timer := by
  unfold State.abortPost
  split
  · rfl
  · rw [State.raiseHost_port, if_pos rfl]
    exact (discard_port s _ k).2.2

/-- Ending a transaction whose timer runs: it is a POST (R88). -/
theorem moves_endTimed (ht : (s.port k).timer ≠ none)
    (hp : P = some (.host k) ∨ (PortLaws (s.port k) → (s.port k).phase ≠ .filling)) :
    Moves G P s (s.setPort k (s.port k).endTx) := by
  refine moves_setPort rfl (hp.imp_right fun h hl => ?_) fun h => h.endTx (by rw [h.laws.timer ht]; simp)
  have := h hl
  simp [Port.endTx, this]

theorem does_postTimeout (h : execPostTimeout k s = .next t) : Does s t := by
  unfold execPostTimeout at h
  split at h
  · rename_i ht
    have ht : (s.port k).timer ≠ none := by
      intro c; simp [c] at ht
    cases h
    refine Does.resume ?_
    split
    · rename_i hf
      refine .handles ((moves_abortPost' (fun hs => hs.store.references) rfl).trans
        (moves_endTimed (by rw [abortPost_port]; exact ht) (.inl rfl))) fun hs => Agrees.of_idle ?_ ?_
      · exact abortPost_slot hs.store.references
      · simp [Port.endTx]
    · rename_i hf
      exact .quiet (moves_endTimed ht (.inr fun _ => hf))
  · exact does_idle h

theorem does_nop (h : execNop k early s = .next t) : Does s t := by
  unfold execNop at h
  split at h
  · rename_i hb
    exact does_answer (moves_setTx (byteStep_tx hb rfl) _) h
  · exact does_idle h

theorem does_query (h : execQuery k early s = .next t) : Does s t := by
  unfold execQuery at h
  split at h
  · rename_i hb
    exact does_answer ((moves_setTx (byteStep_tx hb rfl) _).trans (moves_setReply _ _ _)) h
  · exact does_idle h

/-! ### The role -/

/-- The role given up by a port that lends nothing from the UQ and has no EVENTS transaction (R94, R133). -/
theorem PortsSound.vacate (h : PortsSound s) (hm : s.manager = some k)
    (hl : ∀ l, (s.port k).loan = some l → l.queue ≠ .uq) (ht : (s.port k).tx ≠ .running .events) :
    PortsSound (s.setManager none 0) := by
  obtain ⟨h1, -⟩ := portsSound_iff.mp h
  refine portsSound_iff.mpr ⟨fun j => ⟨(h1 j).laws, fun c => (by cases c), fun l hlj hq => ?_, fun sn hsn => ?_⟩, fun _ => rfl⟩
  · have hj := (h1 j).uqLoan l hlj hq
    rw [hm] at hj
    cases hj
    exact absurd hq (hl l hlj)
  · obtain ⟨g1, g2, g3⟩ := (h1 j).snapshot sn hsn
    refine ⟨g1, g2, fun part late hpl => ?_⟩
    obtain ⟨hj, -⟩ := g3 part late hpl
    rw [hm] at hj
    cases hj
    exact absurd ((h1 k).laws.snapshot (by rw [show (s.port k).snapshot = some sn from hsn]; simp)) ht

/-- The vacant role taken by an unfenced port (R131). -/
theorem PortsSound.claim (h : PortsSound s) (hm : s.manager = none) (hf : (s.port k).fenced = false) :
    PortsSound (s.setManager (some k) 0) := by
  obtain ⟨h1, -⟩ := portsSound_iff.mp h
  refine portsSound_iff.mpr ⟨fun j => ⟨(h1 j).laws, fun c => ?_, fun l hlj hq => ?_, fun sn hsn => ?_⟩, fun c => by cases c⟩
  · cases c; exact hf
  · have hj := (h1 j).uqLoan l hlj hq
    rw [hm] at hj
    cases hj
  · obtain ⟨g1, g2, g3⟩ := (h1 j).snapshot sn hsn
    refine ⟨g1, g2, fun part late hpl => ?_⟩
    obtain ⟨hj, -⟩ := g3 part late hpl
    rw [hm] at hj
    cases hj

theorem clearLoan_tx (s : State) (k : PortId) : ((s.clearLoan k).port k).tx = (s.port k).tx := by
  rcases s.clearLoan_cases k with ⟨-, e⟩ | ⟨l, -, e⟩ <;> rw [e]
  simp

theorem clearLoan_manager (s : State) (k : PortId) (o : Option PortId) (m : Byte) :
    (s.setManager o m).clearLoan k = (s.clearLoan k).setManager o m := by
  rcases s.clearLoan_cases k with ⟨h, e⟩ | ⟨l, h, e⟩
  · rw [e, State.clearLoan, show ((s.setManager o m).port k).loan = none from h]
  · rw [e, State.clearLoan, show ((s.setManager o m).port k).loan = some l from h]
    simp only [State.setRecState_spec]
    rfl

theorem clearLoan_role (s : State) (k : PortId) : (s.clearLoan k).manager = s.manager := by
  rcases s.clearLoan_cases k with ⟨-, e⟩ | ⟨l, -, e⟩ <;> rw [e]
  simp [State.setRecState_spec]

theorem does_portReset (h : execPortReset k early s = .next t) : Does s t := by
  unfold execPortReset at h
  split at h
  swap
  · exact does_idle h
  rename_i hb
  refine does_answer ((moves_setTx (byteStep_tx hb rfl) .portReset).trans ?_) h
  unfold State.portReset
  have htx : (((s.setTx k (.running .portReset)).clearLoan k).port k).tx = .running .portReset := by
    rw [clearLoan_tx]; simp
  have own : Moves (Sound s) none ((s.setTx k (.running .portReset)).clearLoan k)
      (((s.setTx k (.running .portReset)).clearLoan k).setPort k
        (((s.setTx k (.running .portReset)).clearLoan k).port k).resetOwn) := by
    refine moves_setPort rfl (.inr fun _ => Iff.rfl) fun hp => ⟨?_, hp.unfenced, hp.uqLoan, fun sn hsn => ?_⟩
    · exact ⟨hp.laws.idle, hp.laws.phase, hp.laws.timer, hp.laws.readout, hp.laws.snapshot⟩
    · have := hp.laws.snapshot_none (by rw [htx]; simp)
      rw [show (((s.setTx k (.running .portReset)).clearLoan k).port k).snapshot = some sn from hsn] at this
      cases this
  refine (moves_clearLoan _ k).trans ?_
  simp only
  split
  · rename_i hm
    refine own.trans (Move.manager none 0 fun hp => hp.vacate hm (fun l hl => ?_) ?_).moves
    · rw [State.setPort_port, if_pos rfl] at hl
      have hl : ((State.clearLoan (s.setTx k (.running .portReset)) k).port k).loan = some l := hl
      rw [State.clearLoan_loan] at hl
      cases hl
    · rw [State.setPort_port, if_pos rfl]
      exact fun c => absurd (htx.symm.trans c) (by simp)
  · exact own

theorem does_claim (h : execClaim k early s = .next t) : Does s t := by
  unfold execClaim at h
  split at h
  · rename_i hb
    refine does_answer ((moves_setTx (byteStep_tx hb rfl) .claim).trans ?_) h
    unfold State.claimRole
    split
    · exact .refl
    · rename_i hf
      split
      · rename_i hm
        exact (Move.manager _ _ fun hp => hp.claim hm (by simpa using hf)).moves
      · split <;> exact .refl
  · exact does_idle h

theorem does_resign (h : execResign k early s = .next t) : Does s t := by
  unfold execResign at h
  split at h
  swap
  · exact does_idle h
  rename_i hb
  refine does_answer ((moves_setTx (byteStep_tx hb rfl) .resign).trans ?_) h
  have htx : ((s.setTx k (.running .resign)).port k).tx = .running .resign := by simp
  generalize s.setTx k (.running .resign) = u at htx
  unfold State.resignRole
  split
  · exact .refl
  · split
    · exact .refl
    · rename_i hf hm
      have hm : u.manager = some k := by simpa using hm
      simp only [State.clearUqLoan]
      split
      · rw [clearLoan_manager]
        refine (moves_clearLoan u k).trans (Move.manager none 0 fun hp => hp.vacate (k := k) ?_ (fun l hl => ?_) ?_).moves
        · rw [clearLoan_role, hm]
        · rw [State.clearLoan_loan] at hl
          cases hl
        · rw [clearLoan_tx, htx]
          simp
      · rename_i hq
        refine (Move.manager none 0 fun hp => hp.vacate hm (fun l hl c => hq ?_) (by rw [htx]; simp)).moves
        rw [show ((u.setManager none 0).port k).loan = some l from hl, ← c]
        rfl

/-! ### Events -/

/-- The snapshot taken at EVENTS holds the kinds that are set, the manager's for the role holder alone (R123). -/
theorem PortSound.takeSnapshot (hp : PortSound s k (s.port k)) (ht : (s.port k).tx = .opened) (rest : List Byte) :
    PortSound s k
      { s.port k with tx := .running .events, snapshot := some (s.takeSnapshot k), replyRest := rest } where
  laws := by
    refine ⟨(hp.start ht .events).laws.idle, fun c => ?_, fun c => ?_, fun c => ?_, fun _ => rfl⟩
    · exact absurd (hp.laws.phase c) (by rw [ht]; simp)
    · exact absurd (hp.laws.timer c) (by rw [ht]; simp)
    · exact absurd (hp.laws.readout c) (by rw [ht]; simp)
  unfenced := hp.unfenced
  uqLoan := hp.uqLoan
  snapshot sn hsn := by
    cases Option.some.inj hsn
    refine ⟨kindsIn_refl _, kindsIn_zero _, fun part late hpl => ?_⟩
    simp only [State.takeSnapshot] at hpl
    split at hpl
    · rename_i hm
      cases hpl
      exact ⟨hm, kindsIn_refl _, kindsIn_zero _⟩
    · cases hpl

theorem does_events (h : execEvents k early s = .next t) : Does s t := by
  unfold execEvents at h
  split at h
  · rename_i hb
    refine does_answer ?_ h
    exact moves_setPort (by rfl) (.inr fun _ => by exact Iff.rfl)
      fun hp => hp.takeSnapshot (byteStep_tx hb rfl) _
  · exact does_idle h

theorem does_mask (h : execMask k b early s = .next t) : Does s t := by
  unfold execMask at h
  split at h
  · exact does_answer (moves_setPort (by rfl) (.inr fun _ => by exact Iff.rfl)
      fun hp => hp.of_same (by rfl) (by rfl) (by rfl) (by rfl) (by rfl) (by rfl) (by rfl) (by rfl) (by rfl)) h
  · exact does_idle h

theorem does_managerMaskWrite (h : execManagerMaskWrite k b early s = .next t) : Does s t := by
  unfold execManagerMaskWrite at h
  split at h
  · refine does_answer ?_ h
    split
    · rename_i hm
      refine (Move.manager s.manager b fun hp => ?_).moves
      obtain ⟨h1, -⟩ := portsSound_iff.mp hp
      exact portsSound_iff.mpr ⟨fun j => (h1 j).congr rfl rfl, fun c => by
        rw [show s.manager = none from c] at hm; cases hm⟩
    · exact .refl
  · exact does_idle h

/-! ### Fetching -/

/-- A record lent keeps the port's transaction. -/
theorem lend_tx (s : State) (k : PortId) (n : RecId) (q : LoanQueue) : ((s.lend k n q).port k).tx = (s.port k).tx := by
  simp [State.lend]

/-- The judgement of a FETCH: nothing, or a new choice lent. -/
theorem moves_judgeFetch (s : State) (k : PortId) (uq : Bool) : Moves G P s (s.judgeFetch k uq).1 := by
  unfold State.judgeFetch
  split
  · exact .refl
  split
  · exact .refl
  rename_i hf hl
  have hl : (s.port k).loan = none := by simpa using hl
  split
  · split
    · exact .refl
    · rename_i hm
      unfold State.lendUq
      split
      · exact .refl
      · rename_i n rest hq
        exact (Move.lend k n .uq hl (by simp [loanTarget, queueOf, hq]) fun _ => by simpa using hm).moves
  · unfold State.lendInbox
    split
    · exact .refl
    · rename_i n c run hc
      obtain ⟨hh, hr⟩ := choice_spec hc
      exact (moves_setRun hr).trans
        (Move.lend (s := s.setRun (.host k) run) k n (.inbox c) hl hh (fun c => by cases c)).moves

theorem judgeFetch_tx (s : State) (k : PortId) (uq : Bool) :
    ((s.judgeFetch k uq).1.port k).tx = (s.port k).tx := by
  unfold State.judgeFetch
  split
  · rfl
  split
  · rfl
  split
  · split
    · rfl
    · unfold State.lendUq
      split
      · rfl
      · exact lend_tx s k _ .uq
  · unfold State.lendInbox
    split
    · rfl
    · exact lend_tx (s.setRun (.host k) _) k _ _

theorem moves_startReadout {flags : Byte} {st : Status} (ht : (s.port k).tx = .running .fetch) :
    Moves G P s (s.startReadout k flags st) := by
  unfold State.startReadout
  split
  · exact moves_setPort rfl (.inr fun _ => Iff.rfl) fun hp =>
      ⟨⟨hp.laws.idle, hp.laws.phase, hp.laws.timer, fun _ => ht, hp.laws.snapshot⟩, hp.unfenced, hp.uqLoan, hp.snapshot⟩
  · exact .refl

theorem does_fetchStep {uq : Bool} (ht : (s.port k).tx = .running .fetch)
    (h : (.next (s.fetchStep k b early uq).resume : Host.Outcome State Fault Refusal) = .next t) : Does s t :=
  does_answer ((moves_judgeFetch s k uq).trans (moves_startReadout (by rw [judgeFetch_tx, ht]))) h

theorem does_fetch (h : execFetch k b early s = .next t) : Does s t := by
  unfold execFetch at h
  split at h
  · rename_i hb; exact does_fetchStep (byteStep_tx hb rfl) h
  · exact does_idle h

theorem does_fetchUq (h : execFetchUq k b early s = .next t) : Does s t := by
  unfold execFetchUq at h
  split at h
  · rename_i hb; exact does_fetchStep (byteStep_tx hb rfl) h
  · exact does_idle h

theorem does_release (h : execRelease k early s = .next t) : Does s t := by
  unfold execRelease at h
  split at h
  · rename_i hb
    refine does_answer ((moves_setTx (byteStep_tx hb rfl) .release).trans ?_) h
    unfold State.releaseLoan
    split
    · exact .refl
    · split
      · exact .refl
      · rename_i l hl
        have hl : (s.port k).loan = some l := by simpa using hl
        exact moves_discard fun hs r hr hst => absurd hst (hs.store.references.loan_place hl hr)
  · exact does_idle h

theorem does_readItem (h : execReadItem k b early s = .next t) : Does s t := by
  unfold execReadItem at h
  split at h
  · exact does_answer (moves_setReply _ _ _) h
  · exact does_idle h

/-! ### Power-on reset -/

theorem does_powerOnReset (h : execPowerOnReset s = .next t) : Does s t := .quiet (Move.reset t h).moves

end

end Sys2Proof.Safety
end

section
/-! SUPPORT. The item writes and the administrative requests as chains of moves. -/

namespace Sys2Proof.Safety

open Sys2Proof.Machine

section
variable {G : Prop} {P : Option Party} {s t : State} {k : PortId} {b : Byte} {early : Bool}

/-! ### Item writes -/

/-- A write that passed every check is the manager's, from an unfenced port, and passed its own checks (R136). -/
theorem judgeWrite_ok {α : Type} {w : ItemWrite} {own : Except Status α} {a : α} (h : s.judgeWrite k w own = .ok a) :
    s.manager = some k ∧ own = .ok a := by
  unfold State.judgeWrite at h
  split at h
  · cases h
  split at h
  · cases h
  split at h
  · cases h
  rename_i h1 h2 h3
  exact ⟨by simpa using h2, h⟩

/-- An item write does what its effect does, if it passes its checks. -/
theorem does_answerWrite {α : Type} {verdict : Except Status α} {effect : α → State}
    (heff : ∀ a, verdict = .ok a → Does s (effect a))
    (h : (.next (s.answerWrite k early verdict effect).resume : Host.Outcome State Fault Refusal) = .next t) :
    Does s t := by
  cases h
  refine Does.resume ?_
  unfold State.answerWrite
  split
  · exact .quiet (moves_shift s k early _)
  · rename_i a
    obtain ⟨P, hm, ha⟩ := heff a rfl
    refine ⟨P, hm.trans (moves_shift _ _ _ _), fun hs p hp => (ha hs p hp).congr rfl (fun j _ => ?_) fun _ _ => rfl⟩
    rw [State.shift_port]
    split
    · rename_i e; rw [← e]; rfl
    · rfl

theorem moves_items (routes : Vector RouteEntry 32) (runLimit : Vector Nat 6) (postTimeout lowMark : Nat)
    (hr : RoutesUnique s → RoutesUnique { s with routes := routes })
    (hl : (∀ i, 1 ≤ vget s.runLimit i ∧ vget s.runLimit i ≤ 15) → ∀ i, 1 ≤ vget runLimit i ∧ vget runLimit i ≤ 15)
    (hp : s.postTimeout ≤ 255 → postTimeout ≤ 255) (hm : s.lowMark ≤ 511 → lowMark ≤ 511) :
    Moves G P s
      { s with routes := routes, runLimit := runLimit, postTimeout := postTimeout, lowMark := lowMark } :=
  (Move.items routes runLimit s.runCount postTimeout lowMark fun h =>
    ⟨hr h.routes, h.depths, hl h.runLimits, h.runCounts, h.ctrls, hm h.lowMark, hp h.postTimeout⟩).moves

/-- A route entry that passed the DUPLICATE check keeps the addresses unique (R42, R44). -/
theorem RoutesUnique.setRoute {i : Fin 32} {e : RouteEntry} (h : RoutesUnique s)
    (hd : ¬(e.valid = true ∧ s.otherHolds i e.address = true)) : RoutesUnique (s.setRoute i e) := by
  have other {j : Fin 32} (hj : j ≠ i) (hv : (vget s.routes j).valid = true) (he : e.valid = true) :
      (vget s.routes j).address ≠ e.address := by
    intro ha
    refine hd ⟨he, ?_⟩
    simp only [State.otherHolds, List.any_eq_true, Bool.and_eq_true, bne_iff_ne, beq_iff_eq]
    exact ⟨j, List.mem_finRange j, ⟨hj, hv⟩, ha⟩
  intro j l hj hl ha
  simp only [State.setRoute, vget_vset] at hj hl ha
  by_cases ej : i = j <;> by_cases el : i = l
  · exact ej.symm.trans el
  · rw [if_pos ej] at hj ha
    rw [if_neg el] at hl ha
    exact absurd ha.symm (other (Ne.symm el) hl hj)
  · rw [if_neg ej] at hj ha
    rw [if_pos el] at hl ha
    exact absurd ha (other (Ne.symm ej) hj hl)
  · rw [if_neg ej] at hj ha
    rw [if_neg el] at hl ha
    exact h j l hj hl ha

theorem does_routeWrite (h : execRouteWrite k b early s = .next t) : Does s t := by
  unfold execRouteWrite at h
  split at h
  swap
  · exact does_idle h
  refine does_answerWrite (fun a ha => ?_) h
  obtain ⟨-, hc⟩ := judgeWrite_ok ha
  unfold State.routeCheck at hc
  split at hc
  · split at hc
    · cases hc
    · rename_i hd
      cases hc
      exact .quiet (moves_items _ _ _ _ (fun h => h.setRoute hd) id id id)
  · cases hc

theorem does_portaddrWrite (h : execPortaddrWrite k b early s = .next t) : Does s t := by
  unfold execPortaddrWrite at h
  split at h
  · exact does_answerWrite (fun a _ => .quiet (moves_setPort (by rfl) (.inr fun _ => by exact Iff.rfl)
      fun hp => hp.of_same (by rfl) (by rfl) (by rfl) (by rfl) (by rfl) (by rfl) (by rfl) (by rfl) (by rfl))) h
  · exact does_idle h

/-- A guarantee that passed its checks keeps the laws of the accounts (R35). -/
theorem AccountLaws.setGuarantee {p : Party} {g : Nat} (h : AccountLaws s) (h1 : g ≤ s.lim p)
    (h2 : s.sumGuaranteeWith p g ≤ Config.cellCount)
    (h3 : s.sharedUsageWith p g + s.sumGuaranteeWith p g ≤ Config.cellCount) :
    AccountLaws { s with guarantee := vset s.guarantee p.num g, limit := s.limit } := by
  obtain ⟨hlim, -, -⟩ := h
  refine ⟨fun q => ?_, h2, ?_⟩
  · simp only [State.guar, State.lim, vget_vset] at *
    split
    · rename_i e
      rw [← Party.num_inj.mp e]
      exact ⟨h1, (hlim p).2⟩
    · exact hlim q
  · have e : (s.sharedUsageWith p g) + (s.sumGuaranteeWith p g) ≤ 512 := h3
    have : State.sharedUsage { s with guarantee := vset s.guarantee p.num g, limit := s.limit } = s.sharedUsageWith p g := rfl
    rw [this, State.sharedCapacity]
    exact Nat.le_sub_of_add_le e

/-- A limit that passed its check keeps the laws of the accounts (R36). -/
theorem AccountLaws.setLimit {p : Party} {l : Nat} (h : AccountLaws s) (h1 : s.guar p ≤ l) (h2 : l ≤ Config.cellCount) :
    AccountLaws { s with guarantee := s.guarantee, limit := vset s.limit p.num l } := by
  obtain ⟨hlim, hsum, hshared⟩ := h
  refine ⟨fun q => ?_, hsum, hshared⟩
  simp only [State.guar, State.lim, vget_vset] at *
  split
  · rename_i e
    rw [← Party.num_inj.mp e]
    exact ⟨h1, h2⟩
  · exact hlim q

/-- A GUARANTEE write that passed its own checks (R35). -/
theorem guaranteeCheck_ok {w : ItemWrite} {p : Party} {g : Nat} (h : s.guaranteeCheck w = .ok (p, g)) :
    g ≤ s.lim p ∧ s.sumGuaranteeWith p g ≤ Config.cellCount ∧
      s.sharedUsageWith p g + s.sumGuaranteeWith p g ≤ Config.cellCount := by
  unfold State.guaranteeCheck at h
  split at h
  · cases h
  · simp only at h
    split at h
    · cases h
    split at h
    · cases h
    rename_i h1 h2
    cases h
    omega

theorem does_guaranteeWrite (h : execGuaranteeWrite k b early s = .next t) : Does s t := by
  unfold execGuaranteeWrite at h
  split at h
  swap
  · exact does_idle h
  refine does_answerWrite (fun ⟨p, g⟩ ha => ?_) h
  obtain ⟨-, hc⟩ := judgeWrite_ok ha
  obtain ⟨h1, h2, h3⟩ := guaranteeCheck_ok hc
  exact .quiet ((Move.accounts _ _ fun hl => hl.setGuarantee h1 h2 h3).moves.trans (moves_event _ _ _))

/-- A LIMIT write that passed its own check (R36). -/
theorem limitCheck_ok {w : ItemWrite} {p : Party} {l : Nat} (h : s.limitCheck w = .ok (p, l)) :
    s.guar p ≤ l ∧ l ≤ Config.cellCount := by
  unfold State.limitCheck at h
  split at h
  · cases h
  · simp only at h
    split at h
    · cases h
    rename_i hr
    cases h
    omega

/-- A DEPTH write that passed its own checks (R63). -/
theorem depthCheck_ok {w : ItemWrite} {q : QueueId} {d : Nat} (h : s.depthCheck w = .ok (q, d)) :
    (1 ≤ d ∧ d ≤ 16) ∧ (s.qclass q).occupancy ≤ d ∧ s.sumDepthWith q d ≤ Config.depthBudget := by
  unfold State.depthCheck at h
  split at h
  · cases h
  · simp only at h
    split at h
    · cases h
    split at h
    · cases h
    rename_i h1 h2
    cases h
    omega

theorem does_limitWrite (h : execLimitWrite k b early s = .next t) : Does s t := by
  unfold execLimitWrite at h
  split at h
  swap
  · exact does_idle h
  refine does_answerWrite (fun ⟨p, l⟩ ha => ?_) h
  obtain ⟨-, hc⟩ := judgeWrite_ok ha
  obtain ⟨h1, h2⟩ := limitCheck_ok hc
  exact .quiet ((Move.accounts _ _ fun hl => hl.setLimit h1 h2).moves.trans (moves_event _ _ _))

theorem does_depthWrite (h : execDepthWrite k b early s = .next t) : Does s t := by
  unfold execDepthWrite at h
  split at h
  swap
  · exact does_idle h
  refine does_answerWrite (fun ⟨q, d⟩ ha => ?_) h
  obtain ⟨-, hc⟩ := judgeWrite_ok ha
  obtain ⟨h1, h2, h3⟩ := depthCheck_ok hc
  exact .quiet ((Move.depth _ _ h1 h2 h3).moves.trans (moves_judgeDepth _ _))

theorem does_runlimitWrite (h : execRunlimitWrite k b early s = .next t) : Does s t := by
  unfold execRunlimitWrite at h
  split at h
  swap
  · exact does_idle h
  refine does_answerWrite (fun ⟨p, n⟩ ha => ?_) h
  obtain ⟨-, hc⟩ := judgeWrite_ok ha
  unfold runlimitCheck at hc
  split at hc
  · cases hc
  · split at hc
    · cases hc
    rename_i hr
    cases hc
    refine .quiet (moves_items s.routes _ s.postTimeout s.lowMark id (fun hl i => ?_) id id)
    rw [vget_vset]
    split
    · omega
    · exact hl i

theorem does_posttimeoutWrite (h : execPosttimeoutWrite k b early s = .next t) : Does s t := by
  unfold execPosttimeoutWrite at h
  split at h
  swap
  · exact does_idle h
  refine does_answerWrite (fun n ha => ?_) h
  obtain ⟨-, hc⟩ := judgeWrite_ok ha
  unfold posttimeoutCheck at hc
  split at hc
  · cases hc
    exact .quiet (moves_items s.routes s.runLimit _ s.lowMark id id (fun _ => Nat.le_of_lt_succ (BitVec.isLt _)) id)
  · cases hc

theorem does_lowmarkWrite (h : execLowmarkWrite k b early s = .next t) : Does s t := by
  unfold execLowmarkWrite at h
  split at h
  swap
  · exact does_idle h
  refine does_answerWrite (fun n ha => ?_) h
  obtain ⟨-, hc⟩ := judgeWrite_ok ha
  unfold lowmarkCheck at hc
  split at hc
  · rename_i hr
    cases hc
    exact .quiet (moves_items s.routes s.runLimit s.postTimeout _ id id id fun _ => hr.2)
  · cases hc

/-! ### LINKCTRL -/

/-- A LINKCTRL write that passed its check: the link of its index, and a legal item (R138). -/
theorem linkCtrlCheck_ok {w : ItemWrite} {x : LinkId} {c : LinkCtrl} (h : linkCtrlCheck w = .ok (x, c)) :
    linkOfByte w.index = some x ∧ CtrlLegal c ∧ c.enable = (enableField w.v0 == 1) ∧ enableField w.v0 ≤ 1 := by
  unfold linkCtrlCheck at h
  split at h
  · rename_i x' c' hx hc
    cases h
    unfold ItemWrite.linkCtrl at hc
    split at hc
    · rename_i hr
      cases hc
      obtain ⟨h1, -, h3, h4, h5, h6, h7⟩ := hr
      exact ⟨hx, ⟨h3, h4, h5, h6, h7⟩, rfl, h1⟩
    · cases hc
  · cases h

/-- Which LINKCTRL write an in byte 6 is (R160). -/
theorem byteStep_linkCtrl {w : ItemWrite} {x : LinkId} (hw : w.id = 0x07) (hx : linkOfByte w.index = some x) :
    s.writeStep w =
      if enableField w.v0 = 1 ∧ (s.link x).ctrl.enable = false then .linkEnable
      else if enableField w.v0 = 0 ∧ (s.link x).ctrl.enable = true then .linkDisable
      else .writeItem := by
  unfold State.writeStep State.linkCtrlStep
  simp [hw, hx]

/-- A step of LINK_ENABLE or LINK_DISABLE is a write of item 0x07. -/
theorem writeStep_linkCtrl {w : ItemWrite} (h : s.writeStep w = .linkEnable ∨ s.writeStep w = .linkDisable) :
    w.id = 0x07 := by
  unfold State.writeStep at h
  split_ifs at h <;> simp_all

theorem moves_setCtrl {x : LinkId} {c : LinkCtrl} (hc : CtrlLegal c)
    (he : LinkLaws (s.link x) → c.enable = false → (s.link x).state = .off) : Moves G P s (s.setCtrl x c) :=
  moves_setLink rfl rfl (fun _ => hc) rfl
    (fun h => ⟨hc, he h, h.silence, h.holdTimer, h.credit, h.counts, h.reserved, h.inactive, h.header, h.sending⟩) id

theorem does_writeItem (h : execWriteItem k b early s = .next t) : Does s t := by
  unfold execWriteItem at h
  split at h
  swap
  · exact does_idle h
  rename_i hb
  refine does_answerWrite (fun ⟨x, c⟩ ha => ?_) h
  obtain ⟨-, hc⟩ := judgeWrite_ok ha
  split at hc
  swap
  · cases hc
  rename_i hid
  obtain ⟨hx, hleg, hen, hle⟩ := linkCtrlCheck_ok hc
  have hst := byteStep_write hb rfl
  rw [byteStep_linkCtrl hid hx] at hst
  have hsame : c.enable = (s.link x).ctrl.enable := by
    rw [hen]
    split at hst
    · cases hst
    split at hst
    · cases hst
    rename_i h1 h2
    cases he : (s.link x).ctrl.enable <;> simp [he] at h1 h2 ⊢ <;> omega
  refine .quiet (((moves_finish s x).trans (moves_setCtrl hleg fun hl he => ?_)).trans (moves_event _ _ _))
  refine hl.disabled ?_
  rw [(onlyAccounts_finish s x).ctrl, ← hsame, he]

theorem does_linkEnable (h : execLinkEnable k b early s = .next t) : Does s t := by
  unfold execLinkEnable at h
  split at h
  swap
  · exact does_idle h
  rename_i hb
  refine does_answerWrite (fun ⟨x, c⟩ ha => ?_) h
  obtain ⟨-, hc⟩ := judgeWrite_ok ha
  obtain ⟨hx, hleg, hen, hle⟩ := linkCtrlCheck_ok hc
  have hst := byteStep_write hb rfl
  rw [byteStep_linkCtrl (writeStep_linkCtrl (.inl hst)) hx] at hst
  have he : c.enable = true := by
    rw [hen]
    split at hst
    · rename_i h1; simp [h1.1]
    · split at hst <;> cases hst
  have hset : Moves (Sound s) none s (s.setCtrl x c) := moves_setCtrl hleg fun _ c' => by rw [he] at c'; cases c'
  refine .quiet (hset.trans ?_)
  unfold State.enableCtrl
  simp only
  split
  · rename_i hoff
    exact moves_setLink rfl rfl id rfl (fun hl => hl.toStart (.inl hoff) (by simpa using he)) id
  · exact .refl

/-- A disable of a link that is not ACTIVE, with LINKCTRL written (R160). -/
theorem LinkLaws.disableIdle {l : Link} (h : LinkLaws l) {c : LinkCtrl} (hc : CtrlLegal c) (ha : l.state ≠ .active)
    (sent : Nat) (seen : Bool) (hn : sent ≤ 8) :
    LinkLaws { l with ctrl := c, state := .off, fillsSent := sent, fillSeen := seen, holdTimer := false } := by
  obtain ⟨h1, h2, h3, h4, h5⟩ := h.inactive ha
  have hsil : l.silence = false := by
    cases hs : l.silence with
    | false => rfl
    | true => exact absurd (h.silence.mp hs) ha
  exact ⟨hc, fun _ => rfl, by simp [hsil], by simp, h.credit, ⟨hn, h.counts.2⟩, h.reserved,
    fun _ => ⟨h1, h2, h3, h4, h5⟩, h.header, fun sd hsd => .inr ((h.sending sd hsd).resolve_left ha)⟩

theorem disabledActive_slot {u : State} (h : ReferencesSound u) (x : LinkId) {c : LinkCtrl} :
    (disabledActive u x c).slot (.link x) = none :=
  closeInbound_slot_none fun n hn => by
    rw [disableSending_slot] at hn
    exact disableSending_files h x _ _ hn

theorem does_disableCtrl {x : LinkId} {c : LinkCtrl} (hleg : CtrlLegal c) : Does s (s.disableCtrl x c) := by
  have hf := onlyAccounts_finish s x
  have ha0 (hs : Sound s) : Agrees (s.finish x) (.link x) := hf.agrees (slotsOwned_iff.mp hs.store.slots _)
  unfold State.disableCtrl State.disableLink
  rw [State.setCtrl_link, if_pos rfl]
  cases hst : ((s.finish x).link x).state with
  | off => exact .quiet ((moves_finish s x).trans (moves_setCtrl hleg fun _ _ => hst))
  | start =>
    refine .quiet ((moves_finish s x).trans ?_)
    simp only [hst, State.setCtrl, State.setLink_setLink]
    refine moves_setLink (by rfl) (by rfl) (by exact fun _ => hleg) (by rfl) (fun hl => ?_) (by exact id)
    have hht : ((s.finish x).link x).holdTimer = false := by
      cases hh : ((s.finish x).link x).holdTimer with
      | false => rfl
      | true => have := hl.holdTimer.mp hh; rw [hst] at this; cases this
    simpa [hht] using hl.disableIdle hleg (by rw [hst]; simp) 0 false (Nat.zero_le _)
  | hold =>
    refine .quiet ((moves_finish s x).trans ?_)
    simp only [hst, State.setCtrl, State.setLink_setLink]
    exact moves_setLink (by rfl) (by rfl) (by exact fun _ => hleg) (by rfl)
      (fun hl => hl.disableIdle hleg (by rw [hst]; simp) _ _ hl.counts.1) (by exact id)
  | active =>
    simp only [disabledActive_eq]
    refine .handles (p := .link x) ((((moves_finish s x).trans (moves_disabledActive rfl
      (fun hs => hf.references hs.store.references) hleg hst)).trans (moves_raiseDown _ x _)).trans
        (moves_passOn _ _ _)) fun hs => (onlyAccounts_passOn _ _ _).agrees ?_
    obtain ⟨o, due, hl, -⟩ := disabledActive_link (s.finish x) x
    refine Agrees.of_closed ?_ ?_
    · rw [(raiseDown_slot _ _ _ _).1]
      exact disabledActive_slot (hf.references hs.store.references) x
    · rw [State.link_congr (raiseDown_slot _ x _ (.link x)).2]
      simp [disabledActive, hl]

end

end Sys2Proof.Safety
end

section
/-! SUPPORT. A disable, the administrative requests, posting and the in bytes as chains of moves. -/

namespace Sys2Proof.Safety

open Sys2Proof.Machine

section
variable {G : Prop} {P : Option Party} {s t : State} {k : PortId} {b : Byte} {early : Bool}

theorem does_linkDisable (h : execLinkDisable k b early s = .next t) : Does s t := by
  unfold execLinkDisable at h
  split at h
  swap
  · exact does_idle h
  refine does_answerWrite (fun ⟨x, c⟩ ha => ?_) h
  obtain ⟨-, hleg, -⟩ := linkCtrlCheck_ok (judgeWrite_ok ha).2
  exact does_disableCtrl hleg

/-! ### Administrative requests -/

/-- An administrative request that passed its checks is the manager's (R141). -/
theorem judgeAdmin_ok {α : Type} {target : Option α} {a : α} (h : s.judgeAdmin k target = .ok a) :
    s.manager = some k ∧ target = some a := by
  unfold State.judgeAdmin at h
  split at h
  · cases h
  split at h
  · cases h
  rename_i h1 h2
  refine ⟨by simpa using h2, ?_⟩
  split at h
  · cases h
  · cases h; rfl

/-- A request answered DONE after its effect. -/
theorem Does.answer {u : State} {code : Byte} (hu : Does s u) : Does s (u.shift k early code).resume := by
  refine Does.resume ?_
  obtain ⟨P, hm, ha⟩ := hu
  refine ⟨P, hm.trans (moves_shift _ _ _ _), fun hs p hp => (ha hs p hp).congr rfl (fun j _ => ?_) fun _ _ => rfl⟩
  rw [State.shift_port]
  split
  · rename_i e; rw [← e]; rfl
  · rfl

theorem abortPost_tx (s : State) (k : PortId) : ((s.abortPost k).port k).tx = (s.port k).tx := by
  unfold State.abortPost
  split
  · rfl
  · rw [State.raiseHost_port, if_pos rfl]
    exact (discard_port s _ k).1

/-- A change of one port that keeps its loan. -/
theorem sameFiles_setPort {k : PortId} {p : Port} (h : p.loan = (s.port k).loan) : SameFiles s (s.setPort k p) where
  record _ := rfl
  slot _ := rfl
  queue _ := queueOf_setPort s _ k p
  loan j := by
    rw [State.setPort_port]
    split
    · rename_i e; rw [h, e]
    · rfl
  sends _ := rfl

theorem clearLoan_slot (s : State) (k : PortId) (p : Party) : (s.clearLoan k).slot p = s.slot p := by
  rcases s.clearLoan_cases k with ⟨-, e⟩ | ⟨l, -, e⟩ <;> rw [e]
  simp [State.setRecState_spec]

theorem clearLoan_phase (s : State) (k : PortId) : ((s.clearLoan k).port k).phase = (s.port k).phase := by
  rcases s.clearLoan_cases k with ⟨-, e⟩ | ⟨l, -, e⟩ <;> rw [e]
  simp

/-- The fence flag of a port written; the manager's is not set (R90). -/
theorem moves_setFenced {j : PortId} {f : Bool} (hf : s.manager = some j → f = false) :
    Moves G P s (s.setPort j { s.port j with fenced := f }) :=
  moves_setPort rfl (.inr fun _ => Iff.rfl)
    fun h => ⟨⟨h.laws.idle, h.laws.phase, h.laws.timer, h.laws.readout, h.laws.snapshot⟩, hf, h.uqLoan, h.snapshot⟩

/-- The fence of a port that is not the manager's (R92, R142). -/
theorem does_fencePort {j : PortId} (hj : s.manager ≠ some j) : Does s (s.fencePort j) := by
  unfold State.fencePort
  split
  · exact .quiet .refl
  let u := s.setPort j { s.port j with fenced := true }
  have hset {P : Option Party} : Moves (Sound s) P s u := moves_setFenced fun c => absurd c hj
  have hrefs (hs : Sound s) : ReferencesSound u := (sameFiles_setPort (by rfl)).references hs.store.references
  have tail {P : Option Party} (v : State) : Moves (Sound s) P v ((v.clearLoan j).raiseHost j .fenceChanged) :=
    (moves_clearLoan v j).trans (moves_raiseHost _ _ _)
  show Does s (((u.endForFence j).clearLoan j).raiseHost j .fenceChanged)
  unfold State.endForFence
  by_cases ht : (u.port j).tx.isOpen = true
  · have hidle : (u.port j).tx ≠ .idle := fun c => by rw [c] at ht; cases ht
    rw [if_pos ht]
    by_cases hf : (u.port j).phase = .filling
    · simp only [if_pos hf]
      refine .handles (p := .host j) ((hset.trans ((moves_abortPost' hrefs rfl).trans
        (moves_endTx (by rw [abortPost_tx]; exact hidle) (.inl rfl)))).trans (tail _)) fun hs => Agrees.of_idle ?_ ?_
      · rw [State.raiseHost_slot, clearLoan_slot]
        exact abortPost_slot (hrefs hs)
      · rw [State.raiseHost_port, if_pos rfl]
        show (State.port _ j).phase ≠ _
        rw [clearLoan_phase]
        simp [Port.endTx]
    · simp only [if_neg hf]
      exact .quiet ((hset.trans (moves_endTx hidle (.inr fun _ => hf))).trans (tail _))
  · rw [if_neg ht]
    exact .quiet (hset.trans (tail _))

theorem does_fence (h : execFence k b early s = .next t) : Does s t := by
  unfold execFence at h
  split at h
  swap
  · exact does_idle h
  split at h
  · exact does_answer .refl h
  · rename_i j hj
    split at h
    · exact does_answer .refl h
    · rename_i hne
      cases h
      refine (does_fencePort fun c => hne ?_).answer
      rw [(judgeAdmin_ok hj).1] at c
      cases c
      rfl

theorem does_unfence (h : execUnfence k b early s = .next t) : Does s t := by
  unfold execUnfence at h
  split at h
  swap
  · exact does_idle h
  split at h
  · exact does_answer .refl h
  · refine does_answer ?_ h
    unfold State.unfencePort
    split
    · exact (moves_setFenced fun _ => rfl).trans (moves_raiseHost _ _ _)
    · exact .refl

/-- The records of a queue are not assembling. -/
theorem ReferencesSound.queued (h : ReferencesSound s) {u : Target} {n : RecId} (hn : n ∈ queueOf s u) {r : Record}
    (hr : s.record n = some r) : r.state ≠ .assembling := by
  obtain ⟨r', hr', -, hs⟩ := h.queues u n hn
  rw [hr] at hr'
  cases hr'
  exact hs

theorem mem_committedOf {d : Party} {n : RecId} :
    n ∈ s.committedOf d ↔ ∃ c, n ∈ queueOf s (.queue { dest := d, cls := c }) := by
  rw [State.committedOf, List.mem_append]
  constructor
  · rintro (h | h)
    · exact ⟨.express, h⟩
    · exact ⟨.bulk, h⟩
  · rintro ⟨c, h⟩
    cases c with
    | express => exact .inl h
    | bulk => exact .inr h

theorem ReferencesSound.committedOf (h : ReferencesSound s) {d : Party} {n : RecId} (hn : n ∈ s.committedOf d) {r : Record}
    (hr : s.record n = some r) : r.state ≠ .assembling := by
  obtain ⟨c, hc⟩ := mem_committedOf.mp hn
  exact h.queued hc hr

theorem moves_raiseLoanLost (s : State) (j : PortId) (held : Bool) : Moves G P s (s.raiseLoanLost j held) := by
  unfold State.raiseLoanLost
  split
  · exact moves_raiseHost _ _ _
  · exact .refl

theorem moves_purgeInbox (refs : G → ReferencesSound s) (j : PortId) : Moves G P s (s.purgeInbox j) :=
  ((((moves_discardMany fun g _ hn _ hr => (refs g).committedOf hn hr).trans
    (moves_setRun fun _ => Nat.zero_le _)).trans (moves_passOn _ _ _)).trans
      (moves_raiseLoanLost _ _ _)).trans (moves_raiseHost _ _ _)

theorem moves_purgeUq (refs : G → ReferencesSound s) : Moves G P s s.purgeUq := by
  have h : Moves G P s ((s.discardMany s.uq.recs).passOn s (s.returnedByMany s.uq.recs)) :=
    (moves_discardMany fun g _ hn _ hr => (refs g).queued (u := .uq) hn hr).trans (moves_passOn _ _ _)
  unfold State.purgeUq
  simp only
  split
  · exact h
  · exact h.trans (moves_raiseLoanLost _ _ _)

theorem does_purge (h : execPurge k b early s = .next t) : Does s t := by
  unfold execPurge at h
  split at h
  swap
  · exact does_idle h
  split at h
  · exact does_answer .refl h
  · exact does_answer (moves_purgeUq fun hs => hs.store.references) h
  · exact does_answer (moves_purgeInbox (fun hs => hs.store.references) _) h

/-! ### DRAIN -/

/-- An ABM made due before discards or after them (R145). -/
theorem discardMany_abmDue (s : State) (x : LinkId) (ns : List RecId) :
    (s.setLink x { s.link x with abmDue := true }).discardMany ns =
      (s.discardMany ns).setLink x { (s.discardMany ns).link x with abmDue := true } := by
  induction ns generalizing s with
  | nil => rfl
  | cons n ns ih =>
    have e : (s.setLink x { s.link x with abmDue := true }).discardOne n =
        (s.discardOne n).setLink x { (s.discardOne n).link x with abmDue := true } := by
      cases hr : s.record n with
      | none => rw [State.discardOne_none (by exact hr), State.discardOne_none hr]
      | some r =>
        have hn : s.record n ≠ none := by simp [hr]
        rw [discardOne_setLink s x _ n hn, discardOne_link s n x hn, dropSendingOf_eq, dropSendingOf_eq]
    exact (congrArg (State.discardMany · ns) e).trans (ih (s.discardOne n))

/-- A link after discards differs at most in naming no record any more (R19). -/
theorem discardMany_link (s : State) (ns : List RecId) (x : LinkId) :
    ∃ o, (s.discardMany ns).link x = { s.link x with sending := o } ∧ (o = (s.link x).sending ∨ o = none) := by
  induction ns generalizing s with
  | nil => exact ⟨_, rfl, .inl rfl⟩
  | cons n ns ih =>
    obtain ⟨o, h1, h2⟩ := ih (s.discardOne n)
    have e : ∃ o, (s.discardOne n).link x = { s.link x with sending := o } ∧ (o = (s.link x).sending ∨ o = none) := by
      cases hr : s.record n with
      | none => exact ⟨_, by rw [State.discardOne_none hr], .inl rfl⟩
      | some r =>
        refine ⟨_, by rw [discardOne_link s n x (by simp [hr]), dropSendingOf_eq], ?_⟩
        split
        · exact .inr rfl
        · exact .inl rfl
    obtain ⟨o', h3, h4⟩ := e
    rw [h3] at h1 h2
    refine ⟨o, h1, ?_⟩
    rcases h2 with rfl | rfl
    · exact h4
    · exact .inr rfl

/-- After all records of a link's classes are discarded, its transmitter names none (R145). -/
theorem ReferencesSound.drained_sending (h : ReferencesSound s) (x : LinkId) :
    ((s.discardMany (s.committedOf (.link x))).link x).sending = none := by
  obtain ⟨o, ho, hc⟩ := discardMany_link s (s.committedOf (.link x)) x
  cases hs : ((s.discardMany (s.committedOf (.link x))).link x).sending with
  | none => rfl
  | some sd =>
    exfalso
    have e : o = some sd := by rw [ho] at hs; exact hs
    have hsd : (s.link x).sending = some sd := by
      rcases hc with hc | hc
      · rw [← hc, e]
      · rw [hc] at e; cases e
    obtain ⟨-, c, hhead⟩ := h.sendings x sd hsd
    obtain ⟨⟨r, hr, -⟩, -⟩ := (h.discardMany (s.committedOf (.link x))).sendings x sd hs
    rw [discardMany_record, if_pos (mem_committedOf.mpr ⟨c, List.mem_of_mem_head? hhead⟩)] at hr
    cases hr

theorem moves_drainDiscards (refs : G → ReferencesSound s) (x : LinkId) :
    Moves G P s ((s.drainAbm x).discardMany (s.committedOf (.link x))) := by
  have h : Moves G P s (s.discardMany (s.committedOf (.link x))) :=
    moves_discardMany fun g _ hn _ hr => (refs g).committedOf hn hr
  unfold State.drainAbm
  split
  · exact h
  · split
    · rw [discardMany_abmDue]
      exact h.trans (Move.link x { (s.discardMany (s.committedOf (.link x))).link x with abmDue := true }
        rfl (.inl rfl) (fun hl => ⟨hl.ctrl, hl.disabled, hl.silence, hl.holdTimer, hl.credit, hl.counts, hl.reserved,
          hl.inactive, hl.header, hl.sending⟩) id (.inr rfl) fun g _ _ => (refs g).drained_sending x).moves
    · exact h

theorem does_drain (h : execDrain k b early s = .next t) : Does s t := by
  unfold execDrain at h
  split at h
  swap
  · exact does_idle h
  split at h
  · exact does_answer .refl h
  · exact does_answer ((((moves_drainDiscards (fun hs => hs.store.references) _).trans
      (moves_setRun fun _ => Nat.zero_le _)).trans (moves_passOn _ _ _)).trans (moves_transmitterChoose _ _)) h

theorem does_restart (h : execRestart k early s = .next t) : Does s t := by
  unfold execRestart at h
  split at h
  swap
  · exact does_idle h
  rename_i hb
  have ht := moves_setTx (G := Sound s) (P := none) (byteStep_tx hb rfl) .restart
  simp only at h
  split at h
  · exact does_answer ht h
  · exact does_answer (ht.trans (Move.restart k (by simp [State.setTx])).moves) h

end

end Sys2Proof.Safety
end

section
/-! SUPPORT. Posting and the in bytes as chains of moves; and every command of a host port that an in byte can be. -/

namespace Sys2Proof.Safety

open Sys2Proof.Machine

section
variable {G : Prop} {P : Option Party} {s t : State} {k : PortId} {b : Byte} {early : Bool}

/-! ### POST -/

/-- The port of a POST after its judgement: the phase, the watch and in byte 5 (R99). -/
theorem moves_postPhase {ph : PostPhase} {w : Option Watch} (ht : (s.port k).tx = .running .post)
    (hp : P = some (.host k) ∨ ((s.port k).phase = .header ∧ ph = .refused)) :
    Moves G P s (s.postPhase k b ph w) := by
  refine moves_setPort rfl (hp.imp_right ?_) fun h => ?_
  · rintro ⟨h1, rfl⟩ -
    simp [h1]
  · exact ⟨⟨h.laws.idle, fun _ => ht, h.laws.timer, h.laws.readout, h.laws.snapshot⟩, h.unfenced, h.uqLoan, h.snapshot⟩

theorem moves_answerPost {ph : PostPhase} {w : Option Watch} {st : Status} (ht : (s.port k).tx = .running .post)
    (hp : P = some (.host k) ∨ ((s.port k).phase = .header ∧ ph = .refused)) :
    Moves G P s (s.answerPost k b early ph w st) :=
  ((moves_postPhase ht hp).trans (moves_startTimer (by simp [State.postPhase, ht]))).trans (moves_shift _ _ _ _)

/-- The answer of a POST changes its port alone, and leaves it in the phase given (R99). -/
theorem answerPost_port (s : State) (k : PortId) (b : Byte) (early : Bool) (ph : PostPhase) (w : Option Watch)
    (st : Status) : ((s.answerPost k b early ph w st).port k).phase = ph ∧
      ∀ p, (s.answerPost k b early ph w st).slot p = s.slot p := by
  refine ⟨?_, fun p => rfl⟩
  simp [State.answerPost, State.postPhase, State.startTimer, State.shift, Port.shift]

theorem posted_slot (s : State) (k : PortId) (h : PostHeader) (q : QueueId) (n : Nat) (m : RecId) :
    (posted s k h q n m).slot (.host k) = some m := by
  simp [posted]

/-- A POST that is taken: its place, cells and record made and its port in FILLING (R101). -/
theorem moves_takePost {h : PostHeader} {q : QueueId} {n : Nat} {m : RecId} (ht : (s.port k).tx = .running .post)
    (hj : s.judgePost k h = .taken q n) (hm : s.record m = none) (hslot : G → s.slot (.host k) = none) :
    Moves G (some (.host k)) s ((s.takePost k h q n m).answerPost k b early .filling (some .absent) .taken) := by
  have h1 : Moves G (some (.host k)) s (s.takePost k h q n m) :=
    (Move.post k h q n m hm hj hslot rfl).moves.trans (moves_lowMarkTest _ _)
  refine h1.trans (moves_answerPost ?_ (.inl rfl))
  have e : (posted s k h q n m).port k = s.port k := by rw [posted_rest]; rfl
  rcases (posted s k h q n m).lowMarkTest_cases s.free.length with hl | hl
  · rw [show s.takePost k h q n m = _ from hl, e]; exact ht
  · rw [show s.takePost k h q n m = _ from hl, State.raiseMgr_port, e]; exact ht

theorem takePost_slot (s : State) (k : PortId) (h : PostHeader) (q : QueueId) (n : Nat) (m : RecId) :
    (s.takePost k h q n m).slot (.host k) = some m := by
  rcases (posted s k h q n m).lowMarkTest_cases s.free.length with hl | hl <;>
    rw [show s.takePost k h q n m = _ from hl] <;> exact posted_slot s k h q n m

/-- What follows the verdict of a POST (R100). -/
def postOutcome (u : State) (k : PortId) (h : PostHeader) (b : Byte) (early : Bool) :
    PostVerdict → Host.Outcome State Fault Refusal
  | .refused st => .next (u.answerPost k b early .refused none st).resume
  | .full q => .next (u.answerPost k b early .refused (some (.depth q)) .full).resume
  | .noCells n => .next (u.answerPost k b early .refused (some (.cells n)) .noCells).resume
  | .taken q n =>
    match u.freeRecord with
    | none => .fault .recordTableFull
    | some m => .next ((u.takePost k h q n m).answerPost k b early .filling (some .absent) .taken).resume

theorem execPost_due (hb : s.byteStep k b = .post) :
    execPost k b early s =
      postOutcome (s.verdict k ((s.port k).postHeader b)).2 k ((s.port k).postHeader b) b early
        (s.verdict k ((s.port k).postHeader b)).1 := by
  unfold execPost
  rw [if_pos hb]
  simp only
  generalize s.verdict k ((s.port k).postHeader b) = v
  obtain ⟨v, u⟩ := v
  cases v <;> rfl

/-- A free record is not in use (R5). -/
theorem freeRecord_none {n : RecId} (h : s.freeRecord = some n) : s.record n = none := by
  simpa [State.freeRecord] using List.find?_some h

/-- What follows the verdict of a POST in HEADER, from the state with the model's marks as the verdict leaves them. -/
theorem does_postOutcome {h : PostHeader} {v : PostVerdict} {u : State} (hm : ∀ P, Moves (Sound s) P s u)
    (ht : (u.port k).tx = .running .post) (hph : (u.port k).phase = .header)
    (hslot : Sound s → u.slot (.host k) = none) (hv : (∃ q, v = .full q) ∨ u.judgePost k h = v)
    (hn : postOutcome u k h b early v = .next t) : Does s t := by
  have refuse (w : Option Watch) (st : Status) : Does s (u.answerPost k b early .refused w st).resume :=
    Does.resume (.quiet ((hm _).trans (moves_answerPost ht (.inr ⟨hph, rfl⟩))))
  cases v with
  | refused st => cases hn; exact refuse _ _
  | full q => cases hn; exact refuse _ _
  | noCells c => cases hn; exact refuse _ _
  | taken q c =>
    have hj : u.judgePost k h = .taken q c := hv.resolve_left fun ⟨_, e⟩ => by cases e
    simp only [postOutcome] at hn
    split at hn
    · cases hn
    · rename_i m hfree
      cases hn
      refine Does.resume (.handles (p := .host k) ((hm _).trans
        (moves_takePost ht hj (freeRecord_none hfree) hslot)) fun _ => ?_)
      obtain ⟨h1, h2⟩ := answerPost_port (u.takePost k h q c m) k b early .filling (some .absent) .taken
      refine ⟨fun _ => h1, fun _ => ?_⟩
      rw [h2, takePost_slot]
      simp

theorem does_post (h : execPost k b early s = .next t) : Does s t := by
  by_cases hb : s.byteStep k b = .post
  swap
  · rw [execPost, if_neg hb] at h
    exact does_idle h
  rw [execPost_due hb] at h
  obtain ⟨ht, hph, -⟩ := byteStep_post hb
  have hslot (hs : Sound s) : s.slot (.host k) = none := by
    by_contra c
    have := (hs.store.slots.1 k).mp c
    rw [hph] at this
    cases this
  have hmarks (P : Option Party) : Moves (Sound s) P s { s with ahead := none, ties := s.ties + 1 } :=
    moves_marks s (s.ties + 1) s.owed none s.pending
  rcases s.verdict_cases k ((s.port k).postHeader b) with ⟨-, e⟩ | ⟨q, -, e | e⟩ <;> rw [e] at h
  · exact does_postOutcome (fun _ => .refl) ht hph hslot (.inr rfl) h
  · exact does_postOutcome hmarks ht hph hslot (.inl ⟨q, rfl⟩) h
  · exact does_postOutcome hmarks ht hph hslot (.inr rfl) h

/-! ### POST_PAYLOAD_BYTE -/

/-- Storing a payload byte touches the memory and the records alone (R8). -/
theorem storePayload_rest (s : State) (n : RecId) (b : Byte) :
    s.storePayload n b = { s with mem := (s.storePayload n b).mem, records := (s.storePayload n b).records } := by
  unfold State.storePayload
  split
  · rfl
  · split <;> rfl

theorem fillPost_rest (s : State) (k : PortId) (b : Byte) :
    s.fillPost k b = { s with mem := (s.fillPost k b).mem, records := (s.fillPost k b).records } := by
  unfold State.fillPost
  split
  · rfl
  · split
    · rfl
    · split
      · exact storePayload_rest s _ b
      · rfl

theorem moves_fillPost (refs : G → ReferencesSound s) (k : PortId) (b : Byte) : Moves G P s (s.fillPost k b) := by
  unfold State.fillPost
  split
  · exact .refl
  · rename_i n hn
    split
    · exact .refl
    · rename_i r hr
      split
      · rename_i hlt
        refine (Move.store n r b hr hlt fun g => ?_).moves
        obtain ⟨r', hr', ho, hst⟩ := (refs g).slots _ _ hn
        rw [hr] at hr'
        cases hr'
        exact ⟨hst, fun x hx => by rw [ho] at hx; cases hx⟩
      · exact .refl

theorem does_postPayloadByte (h : execPostPayloadByte k b early s = .next t) : Does s t := by
  unfold execPostPayloadByte at h
  split at h
  · rename_i hb
    refine does_answer ((moves_fillPost (fun hs => hs.store.references) k b).trans (moves_startTimer ?_)) h
    rw [fillPost_rest]
    exact (byteStep_payload hb).1
  · exact does_idle h

/-! ### In bytes -/

theorem moves_startRequest (ht : (s.port k).tx = .opened) (r : Request) : Moves G P s (s.startRequest k r) := by
  unfold State.startRequest
  simp only
  split
  · rename_i hr
    subst hr
    refine Relation.ReflTransGen.trans (b := s.setPort k { s.port k with tx := .running .post, phase := .header }) ?_ ?_
    · refine moves_setPort rfl (.inr fun hl => ?_) fun h => ⟨⟨fun c => ?_, fun _ => rfl, fun _ => rfl, fun c => ?_, fun c => ?_⟩,
        h.unfenced, h.uqLoan, h.snapshot⟩
      · have := hl.not_filling (by rw [ht]; simp)
        simp [this]
      · have := h.laws.idle c; rw [ht] at this; cases this
      · have := h.laws.readout c; rw [ht] at this; cases this
      · have := h.laws.snapshot c; rw [ht] at this; cases this
    · have e : (s.setTx k (.running .post)).setPort k { (s.setTx k (.running .post)).port k with phase := .header } =
          s.setPort k { s.port k with tx := .running .post, phase := .header } := by
        simp [State.setTx]
      rw [e]
      exact moves_startTimer (by simp)
  · exact moves_setTx ht r

theorem moves_keepByte (s : State) (k : PortId) (r : Request) (b : Byte) : Moves G P s (s.keepByte k r b) := by
  unfold State.keepByte
  split
  · exact moves_setPort rfl (.inr fun _ => Iff.rfl) fun h => h.of_same rfl rfl rfl rfl rfl rfl rfl rfl rfl
  · exact .refl

theorem keepByte_tx (s : State) (k : PortId) (r : Request) (b : Byte) :
    ((s.keepByte k r b).port k).tx = (s.port k).tx := by
  unfold State.keepByte
  split
  · simp
  · rfl

theorem moves_runningByte {r : Request} (ht : (s.port k).tx = .running r) :
    Moves G P s (s.runningByte k r b early) := by
  unfold State.runningByte
  refine (((moves_keepByte s k r b).trans ?_).trans (moves_setReply _ _ _)).trans (moves_shift _ _ _ _)
  split
  · rename_i hr
    subst hr
    exact moves_startTimer (by rw [keepByte_tx, ht])
  · exact .refl

theorem moves_plainByte (s : State) (k : PortId) (b : Byte) (early : Bool) : Moves G P s (s.plainByte k b early) := by
  unfold State.plainByte
  split
  · exact .refl
  · rename_i ht
    split
    · exact .refl
    · exact (moves_startRequest ht _).trans (moves_shift _ _ _ _)
  · rename_i r ht
    exact moves_runningByte ht
  · exact moves_shift _ _ _ _

theorem does_inByteCompletion (h : execInByteCompletion k b early s = .next t) : Does s t := by
  unfold execInByteCompletion at h
  split at h
  · exact does_idle h
  · cases h
    exact (Does.quiet (moves_plainByte s k b early)).resume
  · exact does_undefinedRequestCode h
  · exact does_nop h
  · exact does_post h
  · exact does_postPayloadByte h
  · exact does_fetch h
  · exact does_fetchUq h
  · exact does_release h
  · exact does_events h
  · exact does_mask h
  · exact does_managerMaskWrite h
  · exact does_query h
  · exact does_claim h
  · exact does_resign h
  · exact does_portReset h
  · exact does_readItem h
  · exact does_writeItem h
  · exact does_routeWrite h
  · exact does_portaddrWrite h
  · exact does_guaranteeWrite h
  · exact does_limitWrite h
  · exact does_depthWrite h
  · exact does_runlimitWrite h
  · exact does_posttimeoutWrite h
  · exact does_lowmarkWrite h
  · exact does_linkEnable h
  · exact does_linkDisable h
  · exact does_fence h
  · exact does_unfence h
  · exact does_purge h
  · exact does_drain h
  · exact does_restart h

end

end Sys2Proof.Safety
end

section
/-! SUPPORT. The link transmitter and receiver as chains of moves; and so every command. -/

namespace Sys2Proof.Safety

open Sys2Proof.Machine

/-! ### What the link laws allow -/

/-- A link with new figures that its laws bound, its state and its places as they were. -/
theorem LinkLaws.of_figures {l : Link} (h : LinkLaws l) {sent settle : Nat} {seen due : Bool} {sym : Option Symbol}
    {grants : Nat} (h1 : sent ≤ 8) (h2 : settle ≤ l.settle) (h3 : grants ≤ l.pendingGrants) :
    LinkLaws
      { l with
        fillsSent := sent, settle := settle, fillSeen := seen, pendingGrants := grants, lastSymbol := sym
        abmDue := due } where
  ctrl := h.ctrl
  disabled := h.disabled
  silence := h.silence
  holdTimer := h.holdTimer
  credit := h.credit
  counts := ⟨h1, h2.trans h.counts.2.1, h.counts.2.2⟩
  reserved := h.reserved
  inactive c := by
    obtain ⟨e1, e2, e3, e4, e5⟩ := h.inactive c
    exact ⟨e1, e2, Nat.le_zero.mp (e3 ▸ h3), Nat.le_zero.mp (e4 ▸ h2), e5⟩
  header := h.header
  sending := h.sending

/-- An ACTIVE link with another credit, progress, header or open message in their ranges (R149, R155, R173). -/
theorem LinkLaws.of_active {l : Link} (h : LinkLaws l) (ha : l.state = .active) {credit : Nat} {sending : Option Sending}
    {sym : Option Symbol} {isOpen silence : Bool} {hdr : List Byte} (hc : credit ≤ Config.maxCredit) (hs : silence = true)
    (hh : (isOpen = false → hdr = []) ∧ (isOpen = true → 1 ≤ hdr.length ∧ hdr.length ≤ 6)) :
    LinkLaws
      { l with
        credit := credit, sending := sending, lastSymbol := sym, isOpen := isOpen, hdr := hdr, silence := silence } where
  ctrl := h.ctrl
  disabled := h.disabled
  silence := ⟨fun _ => ha, fun _ => hs⟩
  holdTimer := h.holdTimer
  credit := hc
  counts := h.counts
  reserved := h.reserved
  inactive c := absurd ha c
  header := hh
  sending _ _ := .inl ha

section
variable {G : Prop} {P : Option Party} {s t : State} {x : LinkId} {b : Byte}

theorem LinkLaws.silent {l : Link} (h : LinkLaws l) (ha : l.state = .active) : l.silence = true := h.silence.mpr ha

/-! ### The transmitter -/

theorem moves_settleFill (s : State) (x : LinkId) : Moves G P s (s.settleFill x) := by
  have h : Moves G P s (s.setLink x { s.link x with settle := (s.link x).settle - 1, lastSymbol := some .fill }) :=
    moves_setLink rfl rfl id rfl (fun hl => hl.of_figures hl.counts.1 (Nat.sub_le _ _) le_rfl) id
  unfold State.settleFill
  simp only
  split
  · exact h.trans (moves_transmitterChoose _ _)
  · exact h

theorem moves_startFill (ha : (s.link x).state = .start) : Moves G P s (s.startFill x) := by
  have h : Moves G P s
      (s.setLink x { s.link x with fillsSent := min ((s.link x).fillsSent + 1) 8, lastSymbol := some .fill }) :=
    moves_setLink rfl rfl id rfl (fun hl => hl.of_figures (Nat.min_le_right _ _) le_rfl le_rfl) id
  unfold State.startFill
  simp only
  split
  · exact h.trans (moves_enterActive (by simp [ha]))
  · exact h

theorem moves_sent (s : State) (x : LinkId) (sym : Symbol) : Moves G P s (s.sent x sym) :=
  moves_setLink rfl rfl id rfl (fun hl => hl.of_figures hl.counts.1 le_rfl le_rfl) id

theorem does_next {u : State} (hu : Moves (Sound s) none s u)
    (h : (.next u.resume : Host.Outcome State Fault Refusal) = .next t) : Does s t := by
  cases h
  exact (Does.quiet hu).resume

theorem does_sendFill (h : execSendFill x s = .next t) : Does s t := by
  unfold execSendFill at h
  split at h
  swap
  · exact does_idle h
  split at h
  · exact does_idle h
  · exact does_idle h
  · rename_i ha
    exact does_next (moves_startFill ha) h
  · split at h
    · exact does_next (moves_settleFill s x) h
    · split at h
      · exact does_next (moves_sent s x .fill) h
      · exact does_idle h

theorem does_settleEnd (h : execSettleEnd x s = .next t) : Does s t := by
  unfold execSettleEnd at h
  split at h
  swap
  · exact does_idle h
  split at h
  · exact does_next (moves_settleFill s x) h
  · exact does_next (moves_transmitterChoose s x) h

theorem does_sendGrant (h : execSendGrant x s = .next t) : Does s t := by
  unfold execSendGrant at h
  split at h
  · refine does_next (moves_setLink (by rfl) (by rfl) (by exact id) (by rfl) (fun hl => ?_) (by exact id)) h
    exact hl.of_figures hl.counts.1 le_rfl (Nat.sub_le _ _)
  · exact does_idle h

/-- At a symbol time for a frame symbol the link is ACTIVE and sends the record (R150, R169). -/
theorem frameSymbol_some {sd : Sending} {r : Record} (h : s.frameSymbol x = some (sd, r)) :
    (s.link x).state = .active ∧ (s.link x).sending = some sd ∧ s.record sd.recId = some r := by
  unfold State.frameSymbol at h
  split at h
  · rename_i hf
    split at h
    · cases h
    · rename_i sd' hsd
      cases hr : s.record sd'.recId with
      | none => rw [hr] at h; cases h
      | some r' =>
        rw [hr] at h
        cases h
        simp [Link.frameTime, Link.working] at hf
        exact ⟨hf.1.1.1, hsd, hr⟩
  · cases h

/-- A frame symbol sent: the progress moves on, and credit is spent or not (R167, R169). -/
theorem moves_progress {n : RecId} {p q : Progress} {credit : Nat} {sym : Option Symbol}
    (ha : (s.link x).state = .active) (hs : (s.link x).sending = some { recId := n, progress := p })
    (hc : credit ≤ (s.link x).credit) :
    Moves G P s
      (s.setLink x
        { s.link x with credit := credit, sending := some { recId := n, progress := q }, lastSymbol := sym }) := by
  refine moves_setLink rfl (by simp [hs]) id rfl (fun hl => ?_) id
  exact hl.of_active ha (hc.trans hl.credit) (hl.silent ha) hl.header

theorem does_sendHeaderByte (h : execSendHeaderByte x s = .next t) : Does s t := by
  unfold execSendHeaderByte at h
  split at h
  · rename_i hf
    obtain ⟨ha, hs, -⟩ := frameSymbol_some hf
    exact does_next (moves_progress ha hs le_rfl) h
  · exact does_idle h

theorem does_sendPayloadByte (h : execSendPayloadByte x s = .next t) : Does s t := by
  unfold execSendPayloadByte at h
  split at h
  · rename_i hf
    obtain ⟨ha, hs, -⟩ := frameSymbol_some hf
    split at h
    · exact does_next (moves_sent s x .fill) h
    · refine does_next (moves_progress ha hs ?_) h
      split
      · exact Nat.sub_le _ _
      · exact le_rfl
  · exact does_idle h

/-- The record whose EOM completes is the sending one (R169). -/
theorem eomRecord_some {n : RecId} (h : s.eomRecord x = some n) :
    (s.link x).sending.map (·.recId) = some n := by
  unfold State.eomRecord at h
  split at h
  · rename_i hs; cases h; simp [hs]
  · rename_i hs
    split at h
    · cases h; simp [hs]
    · cases h
  · cases h

/-- The sending record discarded at the end of its EOM, the transmitter naming none before it or after it (R171). -/
theorem moves_eomDiscard {n : RecId} (refs : G → ReferencesSound s)
    (hs : (s.link x).sending.map (·.recId) = some n) :
    Moves G P s ((s.setLink x { s.link x with sending := none, lastSymbol := some .eom }).discard n) := by
  refine Relation.ReflTransGen.trans ?_ (moves_passOn _ _ _)
  obtain ⟨sd, hsd, hn⟩ := Option.map_eq_some_iff.mp hs
  subst hn
  have laws (hl : LinkLaws (s.link x)) : LinkLaws { s.link x with sending := none, lastSymbol := some .eom } :=
    (hl.dropSending (s.link x).abmDue).of_figures hl.counts.1 le_rfl le_rfl
  cases hr : s.record sd.recId with
  | none =>
    rw [State.discardOne_none (by exact hr)]
    refine (Move.link x { s.link x with sending := none, lastSymbol := some .eom } rfl (.inr ⟨rfl, fun sd' h' => ?_⟩) laws id
      (.inr rfl) fun _ _ _ => rfl).moves
    rw [hsd] at h'
    cases h'
    exact hr
  | some r =>
    have hne : s.record sd.recId ≠ none := by simp [hr]
    have hl : (s.discardOne sd.recId).link x = { s.link x with sending := none } := by
      rw [discardOne_link s sd.recId x hne, dropSendingOf_eq, if_pos hs]
    have e := discardOne_sending hsd hne (s.link x).abmDue (some .eom)
    rw [hl] at e
    rw [e]
    refine (Move.discard sd.recId fun g r' hr' hst => ?_).moves.trans
      (moves_setLink (by rw [hl]) (by rw [hl]) (by rw [hl]; exact id) (by rw [hl]; rfl) (fun h => ?_) (by rw [hl]; exact id))
    · obtain ⟨⟨r'', hr'', hst'⟩, -⟩ := (refs g).sendings x sd hsd
      rw [hr'] at hr''
      cases hr''
      rw [hst] at hst'
      cases hst'
    · rw [hl] at h
      exact h.of_figures h.counts.1 le_rfl le_rfl

theorem does_eomSent {m : EomMoment} (h : execEomSent x m s = .next t) : Does s t := by
  unfold execEomSent at h
  cases m with
  | begins =>
    simp only at h
    split at h
    · rename_i hf
      obtain ⟨ha, hs, -⟩ := frameSymbol_some hf
      exact does_next (moves_progress ha hs le_rfl) h
    · exact does_idle h
  | completes =>
    simp only at h
    split at h
    · rename_i n hn
      exact does_next ((moves_eomDiscard (fun hs => hs.store.references) (eomRecord_some hn)).trans
        (moves_transmitterChoose _ _)) h
    · exact does_idle h

theorem does_sendAbm (h : execSendAbm x s = .next t) : Does s t := by
  unfold execSendAbm at h
  split at h
  · refine does_next ((moves_setLink (by rfl) (by rfl) (by exact id) (by rfl) (fun hl => ?_) (fun c => ?_)).trans
      (moves_transmitterChoose _ _)) h
    · exact hl.of_figures hl.counts.1 le_rfl le_rfl
    · cases c
  · exact does_idle h

end

end Sys2Proof.Safety
end

section
/-! SUPPORT. The link receiver as chains of moves; and so every command (R151, R173 to R177). -/

namespace Sys2Proof.Safety

open Sys2Proof.Machine

section
variable {G : Prop} {P : Option Party} {s t : State} {x : LinkId} {b : Byte}

/-- A fault is all that a command does. -/
theorem does_fault {kind : LinkFault}
    (h : (.next (s.linkFault x kind).resume : Host.Outcome State Fault Refusal) = .next t) : Does s t := by
  cases h
  exact (does_linkFault s x kind).resume

/-- An event at the accounts and then a fault. -/
theorem does_finish_fault (s : State) (x : LinkId) (kind : LinkFault) : Does s ((s.finish x).linkFault x kind) := by
  have hf := onlyAccounts_finish s x
  have hr (hs : Sound s) : ReferencesSound (s.finish x) := hf.references hs.store.references
  exact .handles ((moves_finish s x).trans (moves_linkFault rfl hr kind))
    fun hs => linkFault_agrees (hr hs) kind (hf.agrees (slotsOwned_iff.mp hs.store.slots _))

/-- A valid symbol in ACTIVE (R156). -/
theorem moves_heard (ha : (s.link x).state = .active) : Moves G P s (s.heard x) :=
  moves_setLink rfl rfl id rfl (fun hl => hl.of_active ha hl.credit rfl hl.header) id

theorem does_receiveFill (h : execReceiveFill x s = .next t) : Does s t := by
  unfold execReceiveFill at h
  split at h
  · exact does_idle h
  · exact does_idle h
  · rename_i ha
    have hseen : Moves (Sound s) none s (s.setLink x { s.link x with fillSeen := true }) :=
      moves_setLink rfl rfl id rfl (fun hl => hl.of_figures hl.counts.1 le_rfl le_rfl) id
    simp only at h
    split at h
    · exact does_next (hseen.trans (moves_enterActive (by simp [ha]))) h
    · exact does_next hseen h
  · rename_i ha
    exact does_next (moves_heard ha) h

theorem does_receiveGrant (h : execReceiveGrant x s = .next t) : Does s t := by
  unfold execReceiveGrant at h
  split at h
  · exact does_idle h
  · exact does_idle h
  · exact does_fault h
  · rename_i ha
    split at h
    · exact does_fault h
    · rename_i hc
      refine does_next (moves_setLink (by rfl) (by rfl) (by exact id) (by rfl) (fun hl => ?_) (by exact id)) h
      exact hl.of_active ha (by omega) rfl hl.header

/-! ### Header bytes -/

theorem moves_holdHeaderByte (ha : (s.link x).state = .active) (hd : (s.link x).headerDone ≠ true)
    (he : (s.link x).headerEnds ≠ true) : Moves G P s (s.holdHeaderByte x b) := by
  refine moves_setLink rfl rfl id ?_ (fun hl => hl.of_active ha hl.credit rfl ⟨fun c => (by cases c), fun _ => ?_⟩) id
  · simp only [Link.headerDone, Link.headerEnds] at hd he ⊢
    cases ho : (s.link x).isOpen with
    | false => simp
    | true => simp [ho] at hd he; simp [hd, he]
  · split
    · rename_i ho
      obtain ⟨h1, h2⟩ := hl.header.2 ho
      have h6 : (s.link x).hdr.length ≠ 6 := by simpa [Link.headerDone, ho] using hd
      simp only [List.length_append, List.length_singleton]
      omega
    · simp

theorem linkLaws_headerStep {l : Link} (hl : LinkLaws l) (ha : l.state = .active) {hdr : List Byte} (ho : l.isOpen = true)
    (hlen : hdr.length = 6) : LinkLaws { l with hdr := hdr, silence := true } :=
  hl.of_active ha hl.credit rfl ⟨fun c => (by rw [ho] at c; cases c), fun _ => by omega⟩

theorem framed_link (s : State) (x y : LinkId) (hdr : List Byte) (n : RecId) : (framed s x hdr n).link y = s.link y := by
  rw [framed_rest]; rfl

theorem framed_slot (s : State) (x : LinkId) (hdr : List Byte) (n : RecId) :
    (framed s x hdr n).slot (.link x) = some n := by
  simp [framed]

theorem headerEnds_iff {l : Link} : l.headerEnds = true ↔ l.isOpen = true ∧ l.hdr.length = 5 := by
  simp [Link.headerEnds]

theorem does_headerComplete (ha : (s.link x).state = .active) (he : (s.link x).headerEnds = true)
    (h : s.headerComplete x ((s.link x).hdr ++ [b]) = .next t) : Does s t := by
  obtain ⟨ho, h5⟩ := headerEnds_iff.mp he
  have h6 : ((s.link x).hdr ++ [b]).length = 6 := by simp [h5]
  generalize (s.link x).hdr ++ [b] = hdr at h h6
  unfold State.headerComplete at h
  simp only at h
  split at h
  · exact does_fault h
  rename_i hlen
  split at h
  · cases h
  rename_i n hn
  cases h
  have hslot (hs : Sound s) : s.slot (.link x) = none := by
    by_contra c
    have := (hs.store.slots.2 x).mp c
    simp [Link.headerDone, h5] at this
  let u := framed s x hdr n
  refine Does.resume (.handles (p := .link x) (t := u.setLink x { u.link x with hdr := hdr, silence := true }) ?_ fun _ => ?_)
  · refine (Move.frame x hdr n (freeRecord_none hn) (by omega) hslot rfl).moves.trans
      (Move.link x _ (by rfl) (.inl (by rfl)) (fun hl => ?_) (by exact id) (.inl rfl) (by exact fun _ h => h)).moves
    rw [framed_link] at hl ⊢
    exact linkLaws_headerStep hl ha ho h6
  · have hs : (u.setLink x { u.link x with hdr := hdr, silence := true }).slot (.link x) = some n := framed_slot s x hdr n
    have hl : (u.link x).isOpen = true := by rw [framed_link]; exact ho
    simp only [Agrees, hs, Link.headerDone, State.setLink_link, if_pos]
    simp [hl, h6]

theorem does_receiveHeaderByte (h : execReceiveHeaderByte x b s = .next t) : Does s t := by
  unfold execReceiveHeaderByte at h
  split at h
  · exact does_idle h
  · exact does_idle h
  · exact does_fault h
  · rename_i ha
    split at h
    · exact does_idle h
    · rename_i hd
      split at h
      · rename_i he
        exact does_headerComplete ha he h
      · rename_i he
        exact does_next (moves_holdHeaderByte ha hd he) h

theorem does_headerStep (h : execHeaderStep x b s = .next t) : Does s t := by
  unfold execHeaderStep at h
  split at h
  · exact does_idle h
  · exact does_idle h
  · exact does_fault h
  · rename_i ha
    split at h
    · rename_i he
      exact does_headerComplete ha he h
    · exact does_idle h

/-! ### Payload bytes -/

/-- The record a link receives is the one in its slot (R173). -/
theorem receiving_some {n : RecId} {r : Record} (h : s.receiving x = some (n, r)) :
    s.slot (.link x) = some n ∧ s.record n = some r := by
  unfold State.receiving at h
  split at h
  · cases h
  · rename_i m hm
    cases hr : s.record m with
    | none => rw [hr] at h; cases h
    | some r' => rw [hr] at h; cases h; exact ⟨hm, hr⟩

theorem receiving_none (h : s.receiving x = none) {n : RecId} (hn : s.slot (.link x) = some n) : s.record n = none := by
  unfold State.receiving at h
  rw [hn] at h
  simpa using h

theorem ReferencesSound.received (h : ReferencesSound s) {n : RecId} {r : Record} (hr : s.receiving x = some (n, r)) :
    r.origin = .link x ∧ r.state = .assembling := by
  obtain ⟨h1, h2⟩ := receiving_some hr
  obtain ⟨r', h3, h4, h5⟩ := h.slots _ _ h1
  rw [h2] at h3
  cases h3
  exact ⟨h4, h5⟩

theorem does_receivePayload {n : RecId} {r : Record} (ha : (s.link x).state = .active)
    (hr : s.receiving x = some (n, r)) : Does s (s.receivePayload x n r b) := by
  have hf := onlyAccounts_finish s x
  obtain ⟨hslot, hrec⟩ := receiving_some hr
  have ha' : ((s.finish x).link x).state = .active := by rw [hf.state, ha]
  have hheard : Moves (Sound s) none s ((s.finish x).heard x) := (moves_finish s x).trans (moves_heard ha')
  have hrec' : ((s.finish x).heard x).record n = some r := (hf.record n).trans hrec
  have hslot' : ((s.finish x).heard x).slot (.link x) = some n := (hf.slot _).trans hslot
  unfold State.receivePayload
  simp only
  split
  · exact does_finish_fault s x .frame
  rename_i hlt
  split
  · rename_i hopen
    split
    · exact does_finish_fault s x .credit
    · rename_i c rest hres
      exact .quiet ((hheard.trans (Move.take x n r c rest b (by simpa [State.heard] using hres) hrec' (by omega) hopen
        fun _ => hslot').moves).trans (moves_event _ _ _))
  · rename_i hopen
    refine .quiet (hheard.trans (Move.store n r b hrec' (by omega) fun hs => ?_).moves)
    exact ⟨(hs.store.references.received hr).2, fun _ _ => hopen⟩

theorem does_receivePayloadByte (h : execReceivePayloadByte x b s = .next t) : Does s t := by
  unfold execReceivePayloadByte at h
  split at h
  · exact does_idle h
  · exact does_idle h
  · exact does_fault h
  · rename_i ha
    split at h
    swap
    · exact does_idle h
    split at h
    · exact does_idle h
    · rename_i n r hr
      cases h
      exact (does_receivePayload ha hr).resume

/-! ### The ends of a message -/

/-- The end of an inbound message in ACTIVE; its slot is still to be emptied (R176, R177). -/
theorem moves_endMessage (hP : P = some (.link x)) (ha : (s.link x).state = .active) : Moves G P s (s.endMessage x) :=
  (Move.link x { s.link x with isOpen := false, hdr := [], silence := true } rfl (.inl rfl)
    (fun hl => hl.of_active ha hl.credit rfl ⟨fun _ => rfl, fun c => (by cases c)⟩) id (.inl hP) fun _ h => h).moves

theorem endMessage_files (s : State) (x : LinkId) : SameFiles s (s.endMessage x) := sameFiles_setLink rfl

theorem endMessage_open (s : State) (x : LinkId) : ((s.endMessage x).link x).isOpen = false := by
  simp [State.endMessage]

theorem raiseMgr_files (s : State) (e : MgrEvent) (p : Party) (x : LinkId) :
    (s.raiseMgr e).slot p = s.slot p ∧ (s.raiseMgr e).link x = s.link x := ⟨rfl, rfl⟩

theorem discard_isOpen (s : State) (n : RecId) (x : LinkId) :
    ((s.discard n).link x).isOpen = (s.link x).isOpen := by
  rw [(State.discard_spec s n).link x]
  cases hr : s.record n with
  | none => rw [State.discardOne_none hr]
  | some r => simp [discardOne_link s n x (by simp [hr]), dropSendingOf_eq]

theorem commitEvent_isOpen (s : State) (t : Target) (x : LinkId) :
    ((s.commitEvent t).link x).isOpen = (s.link x).isOpen := by
  unfold State.commitEvent
  split
  · rfl
  · rename_i y c
    rcases s.transmitterChoose_cases y with h | ⟨m, c, k, -, -, -, -, -, h⟩ <;> rw [h]
    rw [State.setLink_link, State.setRecState_spec]
    split
    · rename_i e; subst e; rfl
    · rfl
  · rfl
  · rfl

theorem commit_isOpen (s : State) (n : RecId) (x : LinkId) :
    ((s.commit n).link x).isOpen = (s.link x).isOpen := by
  cases hr : s.record n with
  | none => simp [State.commit, hr]
  | some r =>
    rw [State.commit_spec hr]
    have e : ((committed s n r).link x) = s.link x := by rw [committed_rest]; rfl
    rw [← congrArg Link.isOpen e]
    exact commitEvent_isOpen (committed s n r) r.target x

/-- The record received, discarded at the end of its message. -/
theorem does_endDiscard {n : RecId} {r : Record} {e : MgrEvent} (ha : (s.link x).state = .active)
    (hr : s.receiving x = some (n, r)) : Does s (((s.endMessage x).discard n).raiseMgr e) := by
  obtain ⟨hslot, hrec⟩ := receiving_some hr
  refine .handles (p := .link x) (((moves_endMessage rfl ha).trans (moves_discard fun hs r' hr' _ => ?_)).trans
    (moves_raiseMgr _ _)) fun hs => Agrees.of_closed ?_ ?_
  · rw [(endMessage_files s x).record, hrec] at hr'
    cases hr'
    rw [(hs.store.references.received hr).1]
  · exact ((State.discard_spec _ n).slot _).trans
      (((endMessage_files s x).references hs.store.references).discardOne_slot hslot)
  · exact (discard_isOpen _ n x).trans (endMessage_open s x)

theorem does_endCommit {n : RecId} {r : Record} (ha : (s.link x).state = .active)
    (hr : s.receiving x = some (n, r)) (hfull : r.filled = r.length) (ht : r.target ≠ .drop) :
    Does s ((s.endMessage x).commit n) := by
  obtain ⟨hslot, hrec⟩ := receiving_some hr
  have hrec' : (s.endMessage x).record n = some r := hrec
  refine .handles (p := .link x) ((moves_endMessage rfl ha).trans (moves_commit hrec' hfull (fun hs => ?_) fun _ => ht))
    fun hs => Agrees.of_closed ?_ ?_
  · rw [(hs.store.references.received hr).1]
    exact ⟨hslot, rfl⟩
  · have := commit_slot hrec'
    rwa [(hs.store.references.received hr).1] at this
  · exact (commit_isOpen _ n x).trans (endMessage_open s x)

/-- A message that ends with no record received. -/
theorem does_endEmpty (ha : (s.link x).state = .active) (hr : s.receiving x = none) : Does s (s.endMessage x) := by
  refine .handles (p := .link x) (moves_endMessage rfl ha) fun hs => Agrees.of_closed ?_ (endMessage_open s x)
  rw [(endMessage_files s x).slot]
  cases hn : s.slot (.link x) with
  | none => rfl
  | some n =>
    obtain ⟨r, h1, -⟩ := hs.store.references.slots _ _ hn
    rw [receiving_none hr hn] at h1
    cases h1

theorem Does.raiseMgr {u : State} (h : Does s u) (e : MgrEvent) : Does s (u.raiseMgr e) := by
  obtain ⟨P, hm, ha⟩ := h
  exact ⟨P, hm.trans (moves_raiseMgr _ _), fun hs p hp => (ha hs p hp).congr rfl
    (fun k _ => by rw [State.raiseMgr_port]; rfl) fun _ _ => rfl⟩

theorem does_receiveEom (h : execReceiveEom x s = .next t) : Does s t := by
  unfold execReceiveEom at h
  split at h
  · exact does_idle h
  · exact does_idle h
  · exact does_fault h
  · rename_i ha
    split at h
    · exact does_fault h
    split at h
    · exact does_fault h
    split at h
    · rename_i hr
      cases h
      exact (does_endEmpty ha hr).resume
    · rename_i n r hr
      cases h
      refine Does.resume ?_
      unfold State.eomOutcome
      split
      · rename_i hfull
        cases htgt : r.target with
        | drop => exact does_endDiscard ha hr
        | queue q => exact does_endCommit ha hr hfull (by simp [htgt])
        | uq => exact does_endCommit ha hr hfull (by simp [htgt])
      · exact does_endDiscard ha hr

theorem does_receiveAbm (h : execReceiveAbm x s = .next t) : Does s t := by
  unfold execReceiveAbm at h
  split at h
  · exact does_idle h
  · exact does_idle h
  · exact does_fault h
  · rename_i ha
    split at h
    · exact does_fault h
    split at h
    · rename_i hr
      cases h
      exact ((does_endEmpty ha hr).raiseMgr _).resume
    · rename_i n r hr
      cases h
      exact (does_endDiscard ha hr).resume

/-! ### Symbol errors and the timers -/

theorem does_symbolError {w : SymbolWord} (h : execSymbolError x w s = .next t) : Does s t := by
  unfold execSymbolError at h
  split at h
  · exact does_fault h
  · exact does_idle h

theorem does_silence (h : execSilence x s = .next t) : Does s t := by
  unfold execSilence at h
  split at h
  · exact does_fault h
  · exact does_idle h

theorem LinkLaws.afterHold {l : Link} (h : LinkLaws l) (hs : l.state = .hold) : LinkLaws l.afterHold := by
  have he : l.ctrl.enable = true := by
    cases hc : l.ctrl.enable with
    | true => rfl
    | false => rw [h.disabled hc] at hs; cases hs
  unfold Link.afterHold
  split
  · exact h.toStart (.inr hs) he
  · exact h.disableIdle h.ctrl (by rw [hs]; simp) _ _ h.counts.1

theorem does_holdEnd (h : execHoldEnd x s = .next t) : Does s t := by
  unfold execHoldEnd at h
  split at h
  · rename_i hs
    have keep : (s.link x).afterHold.reserved = (s.link x).reserved ∧ (s.link x).afterHold.sending = (s.link x).sending ∧
        (s.link x).afterHold.ctrl = (s.link x).ctrl ∧ (s.link x).afterHold.headerDone = (s.link x).headerDone ∧
        (s.link x).afterHold.abmDue = (s.link x).abmDue := by
      unfold Link.afterHold
      split <;> exact ⟨rfl, rfl, rfl, rfl, rfl⟩
    obtain ⟨h1, h2, h3, h4, h5⟩ := keep
    exact does_next (moves_setLink h1 (by rw [h2]) (by rw [h3]; exact id) h4 (fun hl => hl.afterHold hs.1) (by rw [h5]; exact id)) h
  · exact does_idle h

/-! ### Every command -/

theorem exec_does {c : Instr} (h : exec c s = .next t) : Does s t := by
  cases c with
  | powerOnReset => exact does_powerOnReset h
  | selectFall k => exact does_selectFall h
  | selectRise k => exact does_selectRise h
  | undefinedRequestCode k code early => exact does_undefinedRequestCode h
  | nop k early => exact does_nop h
  | post k b early => exact does_post h
  | postPayloadByte k b early => exact does_postPayloadByte h
  | postTimeout k => exact does_postTimeout h
  | fetch k b early => exact does_fetch h
  | fetchUq k b early => exact does_fetchUq h
  | release k early => exact does_release h
  | events k early => exact does_events h
  | mask k b early => exact does_mask h
  | managerMaskWrite k b early => exact does_managerMaskWrite h
  | query k early => exact does_query h
  | claim k early => exact does_claim h
  | resign k early => exact does_resign h
  | portReset k early => exact does_portReset h
  | readItem k b early => exact does_readItem h
  | writeItem k b early => exact does_writeItem h
  | routeWrite k b early => exact does_routeWrite h
  | portaddrWrite k b early => exact does_portaddrWrite h
  | guaranteeWrite k b early => exact does_guaranteeWrite h
  | limitWrite k b early => exact does_limitWrite h
  | depthWrite k b early => exact does_depthWrite h
  | runlimitWrite k b early => exact does_runlimitWrite h
  | posttimeoutWrite k b early => exact does_posttimeoutWrite h
  | lowmarkWrite k b early => exact does_lowmarkWrite h
  | linkEnable k b early => exact does_linkEnable h
  | linkDisable k b early => exact does_linkDisable h
  | fence k b early => exact does_fence h
  | unfence k b early => exact does_unfence h
  | purge k b early => exact does_purge h
  | drain k b early => exact does_drain h
  | restart k early => exact does_restart h
  | sendFill x => exact does_sendFill h
  | sendGrant x => exact does_sendGrant h
  | sendHeaderByte x => exact does_sendHeaderByte h
  | sendPayloadByte x => exact does_sendPayloadByte h
  | eomSent x m => exact does_eomSent h
  | sendAbm x => exact does_sendAbm h
  | receiveFill x => exact does_receiveFill h
  | receiveGrant x => exact does_receiveGrant h
  | receiveHeaderByte x b => exact does_receiveHeaderByte h
  | headerStep x b => exact does_headerStep h
  | receivePayloadByte x b => exact does_receivePayloadByte h
  | receiveEom x => exact does_receiveEom h
  | receiveAbm x => exact does_receiveAbm h
  | symbolError x w => exact does_symbolError h
  | silence x => exact does_silence h
  | settleEnd x => exact does_settleEnd h
  | holdEnd x => exact does_holdEnd h
  | inByteCompletion k b early => exact does_inByteCompletion h

end

end Sys2Proof.Safety
end

section
/-! SUPPORT. A step as a chain of moves, and what every step keeps of its own (O53 to O57). -/

namespace Sys2Proof.Safety

open Sys2Proof.Machine

/-- What a chain of moves keeps if each move does. -/
theorem Moves.keep {G : Prop} {P : Option Party} {I : State → Prop} (move : ∀ {s t}, Move G P s t → I s → I t) {s t : State}
    (h : Moves G P s t) (hs : I s) : I t := by
  induction h with
  | refl => exact hs
  | tail _ hm ih => exact move hm ih

/-- A step is the idle one, or takes the front command off the queue and runs it (log 6). -/
theorem step_does {s t : State} (h : step s = .next t) :
    t = s ∨ ∃ c rest, s.pending = c :: rest ∧ exec c { s with pending := rest } = .next t := by
  unfold step at h
  split at h
  · cases h; exact .inl rfl
  · rename_i c rest hp
    exact .inr ⟨c, rest, hp, h⟩

/-- An invariant that every move keeps is kept by every step. -/
theorem step_keeps {I : State → Prop} (move : ∀ {G P s t}, Move G P s t → I s → I t) {s t : State} (h : step s = .next t)
    (hs : I s) : I t := by
  rcases step_does h with rfl | ⟨c, rest, -, he⟩
  · exact hs
  · obtain ⟨P, hm, -⟩ := exec_does he
    exact Moves.keep move hm (move (Move.marks (G := True) (P := none) s.ties s.owed s.ahead rest) hs)

/-! ### The invariants that stand alone -/

/-- Settles O53: every step is a chain of moves, and each move leaves every cell in one place. -/
theorem cellsConservedKept : Obligations.CellsConservedKept :=
  fun _ _ hs h => step_keeps Move.cellsConserved h hs

/-- Settles O54: every step is a chain of moves, and each move keeps the laws of the accounts. -/
theorem accountLawsKept : Obligations.AccountLawsKept :=
  fun _ _ hs h => step_keeps Move.accountLaws h hs

/-- Settles O55: every step is a chain of moves, and each keeps the items in range and the pool's bytes canonical. -/
theorem itemsAndMemoryKept : Obligations.ItemsAndMemoryKept :=
  fun _ _ h => ⟨step_keeps Move.itemsLegal h, step_keeps Move.memWf h⟩

/-- Settles O56: every step is a chain of moves, and each keeps the ports, the role and the snapshots sound. -/
theorem portsKept : Obligations.PortsKept :=
  fun _ _ hs h => step_keeps Move.portsSound h hs

/-- Settles O57: every step is a chain of moves, and each keeps what a link holds in each of its states. -/
theorem linksKept : Obligations.LinksKept :=
  fun _ _ hs h => step_keeps Move.linkLaws h hs

end Sys2Proof.Safety
end

section
/-! SUPPORT. The files of the store: what the slots, queues, loans and transmitters say of the records, and the places kept
for them (R9, R13, R15, R60, R61, R106), apart from everything else in the state; and what each kind of move keeps of it. -/

namespace Sys2Proof.Safety

open Sys2Proof.Machine

/-! ### The files -/

/-- What the files know of a record in use: its origin, its target and its state. -/
def Record.key (r : Record) : Party × Target × RecState := (r.origin, r.target, r.state)

/-- The files of the store. -/
@[ext] structure Files where
  key : RecId → Option (Party × Target × RecState)
  slot : Party → Option RecId
  queue : Target → List RecId
  reserved : Target → Nat
  cap : Target → Nat
  loan : PortId → Option Loan
  sends : LinkId → Option RecId

/-- How many committed and reserved places a target has: a class its depth limit, the UQ 8 (R53, R61). -/
def capOf (s : State) : Target → Nat
  | .queue q => (s.qclass q).depth
  | .uq => Config.uqCapacity
  | .drop => 0

/-- The files of a state. -/
def filesOf (s : State) : Files where
  key n := (s.record n).map Record.key
  slot := s.slot
  queue := queueOf s
  reserved := reservedFor s
  cap := capOf s
  loan k := (s.port k).loan
  sends := sends s

/-- Whether a key is that of a record assembling for target `t`. -/
def assembling (t : Target) : Option (Party × Target × RecState) → Bool
  | some (_, t', st) => decide (t' = t ∧ st = .assembling)
  | none => false

/-- The files agree with the records, and the places reserved with the records that assemble for them. -/
structure Files.Ok (f : Files) : Prop where
  slots : ∀ p n, f.slot p = some n ↔ ∃ t, f.key n = some (p, t, .assembling)
  queues : ∀ t n, n ∈ f.queue t ↔ ∃ p st, f.key n = some (p, t, st) ∧ st ≠ .assembling
  once : ∀ t, (f.queue t).Nodup
  loaned : ∀ n, (∃ k l, f.loan k = some l ∧ l.recId = n) ↔ ∃ p t, f.key n = some (p, t, .loaned)
  loanHead : ∀ k l, f.loan k = some l → (f.queue (loanTarget k l)).head? = some l.recId
  apart : ∀ k k' l l', f.loan k = some l → f.loan k' = some l' → l.recId = l'.recId → k = k'
  sending : ∀ n, (∃ x, f.sends x = some n) ↔ ∃ p t, f.key n = some (p, t, .sending)
  sendHead : ∀ x n, f.sends x = some n → ∃ c, (f.queue (.queue { dest := .link x, cls := c })).head? = some n
  reserved : ∀ t, t ≠ .drop → f.reserved t = ((List.finRange 128).filter fun n => assembling t (f.key n)).length
  bounded : ∀ t, t ≠ .drop → (f.queue t).length + f.reserved t ≤ f.cap t

theorem key_eq_some {s : State} {n : RecId} {k : Party × Target × RecState} :
    (filesOf s).key n = some k ↔ ∃ r, s.record n = some r ∧ (r.origin, r.target, r.state) = k := by
  simp [filesOf, Record.key]

theorem assemblesFor_eq (s : State) (t : Target) : assemblesFor s t = fun n => assembling t ((filesOf s).key n) := by
  funext n
  simp only [assemblesFor, filesOf]
  cases s.record n with
  | none => rfl
  | some r =>
    rw [Bool.eq_iff_iff]
    simp [assembling, Record.key, and_comm]

theorem occupancyBounded_iff {s : State} :
    OccupancyBounded s ↔ ∀ t, t ≠ .drop → (queueOf s t).length + reservedFor s t ≤ capOf s t := by
  constructor
  · rintro ⟨h1, h2⟩ (q | _ | _) ht
    · exact h1 q
    · exact h2
    · exact absurd rfl ht
  · exact fun h => ⟨fun q => h (.queue q) (by simp), h .uq (by simp)⟩

/-- The files are in order exactly if the references, the places, the reservations and the bounds of the store are. -/
theorem files_ok_iff {s : State} :
    (filesOf s).Ok ↔ ReferencesSound s ∧ RecordsPlaced s ∧ ReservationsExact s ∧ OccupancyBounded s := by
  rw [referencesSound_iff, recordsPlaced_iff, occupancyBounded_iff]
  unfold ReservationsExact
  simp only [assemblesFor_eq]
  constructor
  · intro h
    have hk {n : RecId} {r : Record} (hr : s.record n = some r) : (filesOf s).key n = some (r.origin, r.target, r.state) :=
      key_eq_some.mpr ⟨r, hr, rfl⟩
    refine ⟨⟨fun p n hn => ?_, fun t n hn => ?_, h.once, fun k l hl => ⟨?_, h.loanHead k l hl⟩, h.apart, fun x n hx =>
      ⟨?_, h.sendHead x n hx⟩⟩, ⟨fun n r hr hs => ?_, fun n r hr hs => ?_, fun n r hr hs => ?_, fun n r hr hs => ?_⟩,
      h.reserved, h.bounded⟩
    · obtain ⟨t, hkey⟩ := (h.slots p n).mp hn
      obtain ⟨r, hr, e⟩ := key_eq_some.mp hkey
      exact ⟨r, hr, congrArg (·.1) e, congrArg (·.2.2) e⟩
    · obtain ⟨p, st, hkey, hne⟩ := (h.queues t n).mp hn
      obtain ⟨r, hr, e⟩ := key_eq_some.mp hkey
      cases e
      exact ⟨r, hr, rfl, hne⟩
    · obtain ⟨p, t, hkey⟩ := (h.loaned l.recId).mp ⟨k, l, hl, rfl⟩
      obtain ⟨r, hr, e⟩ := key_eq_some.mp hkey
      exact ⟨r, hr, congrArg (·.2.2) e⟩
    · obtain ⟨p, t, hkey⟩ := (h.sending n).mp ⟨x, hx⟩
      obtain ⟨r, hr, e⟩ := key_eq_some.mp hkey
      exact ⟨r, hr, congrArg (·.2.2) e⟩
    · exact (h.slots _ n).mpr ⟨r.target, by rw [hk hr, hs]⟩
    · exact (h.queues _ n).mpr ⟨r.origin, r.state, hk hr, hs⟩
    · exact (h.loaned n).mpr ⟨r.origin, r.target, by rw [hk hr, hs]⟩
    · exact (h.sending n).mpr ⟨r.origin, r.target, by rw [hk hr, hs]⟩
  · rintro ⟨⟨h1, h2, h3, h4, h5, h6⟩, ⟨g1, g2, g3, g4⟩, hres, hocc⟩
    refine ⟨fun p n => ⟨fun hn => ?_, ?_⟩, fun t n => ⟨fun hn => ?_, ?_⟩, h3, fun n => ⟨?_, ?_⟩,
      fun k l hl => (h4 k l hl).2, h5, fun n => ⟨?_, ?_⟩, fun x n hx => (h6 x n hx).2, hres, hocc⟩
    · obtain ⟨r, hr, ho, hs⟩ := h1 p n hn
      exact ⟨r.target, key_eq_some.mpr ⟨r, hr, by rw [ho, hs]⟩⟩
    · rintro ⟨t, hkey⟩
      obtain ⟨r, hr, e⟩ := key_eq_some.mp hkey
      have := g1 n r hr (congrArg (·.2.2) e)
      rwa [show r.origin = p from congrArg (·.1) e] at this
    · obtain ⟨r, hr, ho, hs⟩ := h2 t n hn
      exact ⟨r.origin, r.state, key_eq_some.mpr ⟨r, hr, by rw [ho]⟩, hs⟩
    · rintro ⟨p, st, hkey, hne⟩
      obtain ⟨r, hr, e⟩ := key_eq_some.mp hkey
      cases e
      exact g2 n r hr hne
    · rintro ⟨k, l, hl, rfl⟩
      obtain ⟨⟨r, hr, hs⟩, -⟩ := h4 k l hl
      exact ⟨r.origin, r.target, key_eq_some.mpr ⟨r, hr, by rw [hs]⟩⟩
    · rintro ⟨p, t, hkey⟩
      obtain ⟨r, hr, e⟩ := key_eq_some.mp hkey
      exact g3 n r hr (congrArg (·.2.2) e)
    · rintro ⟨x, hx⟩
      obtain ⟨⟨r, hr, hs⟩, -⟩ := h6 x n hx
      exact ⟨r.origin, r.target, key_eq_some.mpr ⟨r, hr, by rw [hs]⟩⟩
    · rintro ⟨p, t, hkey⟩
      obtain ⟨r, hr, e⟩ := key_eq_some.mp hkey
      exact g4 n r hr (congrArg (·.2.2) e)

/-! ### Reading the files -/

namespace Files.Ok

variable {f : Files} (h : f.Ok)
include h

/-- A record is in one queue only. -/
theorem target_unique {t t' : Target} {n : RecId} (h1 : n ∈ f.queue t) (h2 : n ∈ f.queue t') : t = t' := by
  obtain ⟨p, st, e1, -⟩ := (h.queues t n).mp h1
  obtain ⟨p', st', e2, -⟩ := (h.queues t' n).mp h2
  rw [e1] at e2
  cases e2
  rfl

theorem loan_mem {k : PortId} {l : Loan} (hl : f.loan k = some l) : l.recId ∈ f.queue (loanTarget k l) :=
  List.mem_of_mem_head? (h.loanHead k l hl)

/-- A record at the head of a class of a link is lent to no port. -/
theorem not_loaned_of_link {x : LinkId} {c : MsgClass} {n : RecId} (hn : n ∈ f.queue (.queue { dest := .link x, cls := c }))
    {k : PortId} {l : Loan} (hl : f.loan k = some l) : l.recId ≠ n := by
  rintro rfl
  have e := h.target_unique (h.loan_mem hl) hn
  unfold loanTarget at e
  split at e <;> cases e

theorem sends_mem {x : LinkId} {n : RecId} (hx : f.sends x = some n) :
    ∃ c, n ∈ f.queue (.queue { dest := .link x, cls := c }) := by
  obtain ⟨c, hc⟩ := h.sendHead x n hx
  exact ⟨c, List.mem_of_mem_head? hc⟩

/-- Two transmitters send two records. -/
theorem sends_apart {x y : LinkId} {n : RecId} (hx : f.sends x = some n) (hy : f.sends y = some n) : x = y := by
  obtain ⟨c, hc⟩ := h.sends_mem hx
  obtain ⟨c', hc'⟩ := h.sends_mem hy
  cases h.target_unique hc hc'
  rfl

/-- A record in a queue is not assembling. -/
theorem key_of_mem {t : Target} {n : RecId} (hn : n ∈ f.queue t) : ∃ p st, f.key n = some (p, t, st) ∧ st ≠ .assembling :=
  (h.queues t n).mp hn

end Files.Ok

end Sys2Proof.Safety
end

section
/-! SUPPORT. What each kind of change of the files keeps of their order (R12, R13, R16, R19, R101, R168, R174). -/

namespace Sys2Proof.Safety

open Sys2Proof.Machine

/-- The key of one record replaced. -/
def Files.rekey (f : Files) (n : RecId) (k : Option (Party × Target × RecState)) : Files :=
  { f with key := fun m => if m = n then k else f.key m }

theorem Files.rekey_key (f : Files) (n : RecId) (k : Option (Party × Target × RecState)) (m : RecId) :
    (f.rekey n k).key m = if m = n then k else f.key m := rfl

/-- How many records assemble for a target, after one record's key is replaced. -/
theorem Files.count_rekey (f : Files) (n : RecId) (k : Option (Party × Target × RecState)) (t : Target) :
    ((List.finRange 128).filter fun m => assembling t ((f.rekey n k).key m)).length +
        (if assembling t (f.key n) then 1 else 0) =
      ((List.finRange 128).filter fun m => assembling t (f.key m)).length + if assembling t k then 1 else 0 := by
  have := length_filter_add_of_agree (n := n) (p := fun m => assembling t ((f.rekey n k).key m))
    (q := fun m => assembling t (f.key m)) fun m hm => by simp [Files.rekey, hm]
  simpa [Files.rekey] using this

theorem assembling_iff {t : Target} {k : Option (Party × Target × RecState)} :
    assembling t k = true ↔ ∃ p, k = some (p, t, .assembling) := by
  unfold assembling
  split <;> simp

namespace Files.Ok

variable {f : Files} (h : f.Ok)
include h

section
variable {n : RecId} {p : Party} {t : Target} {st : RecState}

/-! ### A record in its queue that becomes queued, loaned or sending -/

/-- What remains to be shown where a record in a queue changes its state there, and loans and transmitters change with it. -/
theorem relabel {st' : RecState} (hk : f.key n = some (p, t, st)) (hst : st ≠ .assembling) (hst' : st' ≠ .assembling)
    {loan : PortId → Option Loan} {sends : LinkId → Option RecId}
    (loaned : ∀ m, (∃ k l, loan k = some l ∧ l.recId = m) ↔
      if m = n then st' = .loaned else ∃ k l, f.loan k = some l ∧ l.recId = m)
    (loanHead : ∀ k l, loan k = some l → (f.queue (loanTarget k l)).head? = some l.recId)
    (apart : ∀ k k' l l', loan k = some l → loan k' = some l' → l.recId = l'.recId → k = k')
    (sending : ∀ m, (∃ x, sends x = some m) ↔ if m = n then st' = .sending else ∃ x, f.sends x = some m)
    (sendHead : ∀ x m, sends x = some m → ∃ c, (f.queue (.queue { dest := .link x, cls := c })).head? = some m) :
    Files.Ok { f.rekey n (some (p, t, st')) with loan := loan, sends := sends } where
  slots q m := by
    refine (h.slots q m).trans ?_
    simp only [rekey_key]
    split
    · rename_i e; subst e; simp [hk, hst, hst']
    · rfl
  queues u m := by
    refine (h.queues u m).trans ?_
    simp only [rekey_key]
    split
    · rename_i e; subst e; simp [hk, hst, hst']
    · rfl
  once := h.once
  loaned m := by
    rw [loaned m]
    simp only [rekey_key]
    split
    · simp
    · exact h.loaned m
  loanHead := loanHead
  apart := apart
  sending m := by
    rw [sending m]
    simp only [rekey_key]
    split
    · simp
    · exact h.sending m
  sendHead := sendHead
  reserved u hu := by
    have := f.count_rekey n (some (p, t, st')) u
    have e1 : assembling u (f.key n) = false := by simp [hk, assembling, hst]
    have e2 : assembling u (some (p, t, st')) = false := by simp [assembling, hst']
    simp only [e1, e2, Bool.false_eq_true, if_false, Nat.add_zero] at this
    exact (h.reserved u hu).trans this.symm
  bounded := h.bounded

/-- The head of a class chosen by its link's transmitter (R168). -/
theorem choose {x : LinkId} {c : MsgClass} (hk : f.key n = some (p, t, st))
    (hn : (f.queue (.queue { dest := .link x, cls := c })).head? = some n) (hx : f.sends x = none) :
    Files.Ok { f.rekey n (some (p, t, .sending)) with sends := fun y => if y = x then some n else f.sends y } := by
  have hmem := List.mem_of_mem_head? hn
  obtain ⟨p', st', hk', hst⟩ := h.key_of_mem hmem
  rw [hk] at hk'
  cases hk'
  have unsent (y : LinkId) : f.sends y ≠ some n := by
    intro hy
    obtain ⟨c', hc'⟩ := h.sends_mem hy
    cases h.target_unique hmem hc'
    rw [hx] at hy
    cases hy
  refine h.relabel hk hst (by simp) (fun m => ?_) h.loanHead h.apart (fun m => ?_) fun y m hy => ?_
  · split
    · rename_i e
      subst e
      simp only [reduceCtorEq, iff_false]
      rintro ⟨k, l, hl, e⟩
      exact h.not_loaned_of_link hmem hl e
    · rfl
  · constructor
    · rintro ⟨y, hy⟩
      split at hy
      · cases hy; simp
      · split
        · rename_i e; exact absurd (e ▸ hy) (unsent y)
        · exact ⟨y, hy⟩
    · split
      · rename_i e; exact fun _ => ⟨x, by simp [e]⟩
      · rintro ⟨y, hy⟩
        refine ⟨y, ?_⟩
        rw [if_neg ?_, hy]
        rintro rfl
        rw [hx] at hy
        cases hy
  · split at hy
    · rename_i e; subst e; cases hy; exact ⟨c, hn⟩
    · exact h.sendHead y m hy

/-- The head of a port's inbox or of the UQ lent to the port (R108). -/
theorem lend {k : PortId} {l : Loan} (hk : f.key l.recId = some (p, t, st))
    (hn : (f.queue (loanTarget k l)).head? = some l.recId) (hfree : f.loan k = none)
    (role : ∀ k' l', f.loan k' = some l' → l'.queue = .uq → l.queue = .uq → k' = k) :
    Files.Ok { f.rekey l.recId (some (p, t, .loaned)) with loan := fun j => if j = k then some l else f.loan j } := by
  have hmem := List.mem_of_mem_head? hn
  obtain ⟨p', st', hk', hst⟩ := h.key_of_mem hmem
  rw [hk] at hk'
  cases hk'
  have unlent (k' : PortId) (l' : Loan) (hl' : f.loan k' = some l') : l'.recId ≠ l.recId := by
    intro e
    have hmem' := h.loan_mem hl'
    rw [e] at hmem'
    have ht := h.target_unique hmem' hmem
    have : k' = k := by
      unfold loanTarget at ht
      split at ht <;> split at ht <;> cases ht
      · rfl
      · exact role k' l' hl' ‹_› ‹_›
    rw [this, hfree] at hl'
    cases hl'
  refine h.relabel hk hst (by simp) (fun m => ?_) (fun j l' hj => ?_) (fun j j' l1 l2 hj hj' e => ?_) (fun m => ?_) h.sendHead
  · constructor
    · rintro ⟨j, l', hj, rfl⟩
      split at hj
      · cases hj; simp
      · rw [if_neg (unlent j l' hj)]
        exact ⟨j, l', hj, rfl⟩
    · split
      · rename_i e; exact fun _ => ⟨k, l, by simp, e.symm⟩
      · rintro ⟨j, l', hj, e⟩
        refine ⟨j, l', ?_, e⟩
        rw [if_neg ?_, hj]
        rintro rfl
        rw [hfree] at hj
        cases hj
  · split at hj
    · rename_i e; subst e; cases hj; exact hn
    · exact h.loanHead j l' hj
  · split at hj <;> split at hj'
    · simp_all
    · cases hj; exact absurd e.symm (unlent j' l2 hj')
    · cases hj'; exact absurd e (unlent j l1 hj)
    · exact h.apart j j' l1 l2 hj hj' e
  · split
    · rename_i e
      subst e
      simp only [reduceCtorEq, iff_false]
      rintro ⟨x, hx⟩
      obtain ⟨c, hc⟩ := h.sends_mem hx
      have e := h.target_unique hmem hc
      unfold loanTarget at e
      split at e <;> cases e
    · rfl

/-- A loan cleared without removal (R13). -/
theorem clearLoan {k : PortId} {l : Loan} (hl : f.loan k = some l) (hk : f.key l.recId = some (p, t, st)) :
    Files.Ok { f.rekey l.recId (some (p, t, .queued)) with loan := fun j => if j = k then none else f.loan j } := by
  obtain ⟨p', t', hk'⟩ := (h.loaned l.recId).mp ⟨k, l, hl, rfl⟩
  rw [hk] at hk'
  cases hk'
  have sub {j : PortId} {l' : Loan} (hj : (if j = k then none else f.loan j) = some l') : j ≠ k ∧ f.loan j = some l' := by
    split at hj
    · cases hj
    · exact ⟨‹_›, hj⟩
  refine h.relabel hk (by simp) (by simp) (fun m => ?_) (fun j l' hj => h.loanHead j l' (sub hj).2)
    (fun j j' l1 l2 hj hj' => h.apart j j' l1 l2 (sub hj).2 (sub hj').2) (fun m => ?_) h.sendHead
  · constructor
    · rintro ⟨j, l', hj, rfl⟩
      obtain ⟨hne, hj⟩ := sub hj
      rw [if_neg fun e => hne (h.apart j k l' l hj hl e)]
      exact ⟨j, l', hj, rfl⟩
    · split
      · simp
      · rename_i hm
        rintro ⟨j, l', hj, e⟩
        refine ⟨j, l', ?_, e⟩
        rw [if_neg ?_, hj]
        rintro rfl
        rw [hl] at hj
        cases hj
        exact hm e.symm
  · split
    · rename_i e
      subst e
      simp only [reduceCtorEq, iff_false]
      intro hx
      obtain ⟨p', t', e⟩ := (h.sending _).mp hx
      rw [hk] at e
      cases e
    · rfl

/-- The sending record of a link back in its class (R16, R17). -/
theorem requeue {x : LinkId} (hx : f.sends x = some n) (hk : f.key n = some (p, t, st)) :
    Files.Ok { f.rekey n (some (p, t, .queued)) with sends := fun y => if y = x then none else f.sends y } := by
  obtain ⟨p', t', hk'⟩ := (h.sending n).mp ⟨x, hx⟩
  rw [hk] at hk'
  cases hk'
  have sub {y : LinkId} {m : RecId} (hy : (if y = x then none else f.sends y) = some m) : y ≠ x ∧ f.sends y = some m := by
    split at hy
    · cases hy
    · exact ⟨‹_›, hy⟩
  refine h.relabel hk (by simp) (by simp) (fun m => ?_) h.loanHead h.apart (fun m => ?_)
    fun y m hy => h.sendHead y m (sub hy).2
  · split
    · rename_i e
      subst e
      simp only [reduceCtorEq, iff_false]
      intro hl
      obtain ⟨p', t', e⟩ := (h.loaned _).mp hl
      rw [hk] at e
      cases e
    · rfl
  · constructor
    · rintro ⟨y, hy⟩
      obtain ⟨hne, hy⟩ := sub hy
      rw [if_neg]
      · exact ⟨y, hy⟩
      · rintro rfl
        exact hne (h.sends_apart hy hx)
    · split
      · simp
      · rename_i hm
        rintro ⟨y, hy⟩
        refine ⟨y, ?_⟩
        rw [if_neg ?_, hy]
        rintro rfl
        rw [hx] at hy
        cases hy
        exact hm rfl

end

end Files.Ok

end Sys2Proof.Safety
end

section
/-! SUPPORT. The changes of the files that move a record in or out of a place: a discard, a commit, the move to the UQ and
the creation of a record (R7, R12, R16, R19). -/

namespace Sys2Proof.Safety

open Sys2Proof.Machine

namespace Files

/-- No port and no transmitter names record `n` any more (R19). -/
def forget (f : Files) (n : RecId) : Files :=
  { f with
    loan := fun k => if (f.loan k).map (·.recId) = some n then none else f.loan k
    sends := fun x => if f.sends x = some n then none else f.sends x }

/-- The files after the discard of a committed record (R19). -/
def discardQueued (f : Files) (n : RecId) (t : Target) : Files :=
  { (f.rekey n none).forget n with queue := fun u => if u = t then (f.queue u).erase n else f.queue u }

/-- The files after the discard of an assembling record (R19). -/
def discardAssembling (f : Files) (n : RecId) (p : Party) (t : Target) : Files :=
  { (f.rekey n none).forget n with
    slot := fun q => if q = p then none else f.slot q
    reserved := fun u => if u = t then f.reserved u - 1 else f.reserved u }

/-- The files after a commit (R12). -/
def commit (f : Files) (n : RecId) (p : Party) (t : Target) : Files :=
  { f.rekey n (some (p, t, .queued)) with
    slot := fun q => if q = p then none else f.slot q
    queue := fun u => if u = t then f.queue u ++ [n] else f.queue u
    reserved := fun u => if u = t then f.reserved u - 1 else f.reserved u }

/-- The files after the sending record of a link has moved to the UQ (R16). -/
def undeliver (f : Files) (x : LinkId) (n : RecId) (p : Party) (t : Target) : Files :=
  { f.rekey n (some (p, .uq, .queued)) with
    sends := fun y => if y = x then none else f.sends y
    queue := fun u => if u = .uq then f.queue u ++ [n] else if u = t then (f.queue u).erase n else f.queue u }

/-- The files after a record is created in a slot (R7). -/
def create (f : Files) (n : RecId) (p : Party) (t : Target) : Files :=
  { f.rekey n (some (p, t, .assembling)) with
    slot := fun q => if q = p then some n else f.slot q
    reserved := fun u => if u = t ∧ u ≠ .drop then f.reserved u + 1 else f.reserved u }

theorem forget_loan {f : Files} {n : RecId} {k : PortId} {l : Loan} :
    (f.forget n).loan k = some l ↔ f.loan k = some l ∧ l.recId ≠ n := by
  simp only [forget]
  split
  · rename_i e
    simp only [reduceCtorEq, false_iff]
    rintro ⟨h1, h2⟩
    rw [h1] at e
    exact h2 (by simpa using e)
  · rename_i e
    refine ⟨fun h1 => ⟨h1, fun h2 => e (by simp [h1, h2])⟩, fun h1 => h1.1⟩

theorem forget_sends {f : Files} {n m : RecId} {x : LinkId} :
    (f.forget n).sends x = some m ↔ f.sends x = some m ∧ m ≠ n := by
  simp only [forget]
  split
  · rename_i e
    simp only [reduceCtorEq, false_iff]
    rintro ⟨h1, h2⟩
    rw [h1] at e
    exact h2 (by simpa using e)
  · rename_i e
    refine ⟨fun h1 => ⟨h1, fun h2 => e (by rw [h1, h2])⟩, fun h1 => h1.1⟩

theorem rekey_none {f : Files} {n m : RecId} {k : Party × Target × RecState} :
    (f.rekey n none).key m = some k ↔ f.key m = some k ∧ m ≠ n := by
  rw [rekey_key]
  split
  · rename_i e; simp [e]
  · rename_i e; simp [e]

namespace Ok

variable {f : Files} (h : f.Ok) {n : RecId} {p : Party} {t : Target} {st : RecState}
include h

theorem loaned_forget (m : RecId) :
    (∃ k l, (f.forget n).loan k = some l ∧ l.recId = m) ↔ ∃ q u, (f.rekey n none).key m = some (q, u, .loaned) := by
  simp only [forget_loan, rekey_none]
  constructor
  · rintro ⟨k, l, ⟨hl, hn⟩, rfl⟩
    obtain ⟨q, u, e⟩ := (h.loaned _).mp ⟨k, l, hl, rfl⟩
    exact ⟨q, u, e, hn⟩
  · rintro ⟨q, u, e, hn⟩
    obtain ⟨k, l, hl, rfl⟩ := (h.loaned m).mpr ⟨q, u, e⟩
    exact ⟨k, l, ⟨hl, hn⟩, rfl⟩

theorem sending_forget (m : RecId) :
    (∃ x, (f.forget n).sends x = some m) ↔ ∃ q u, (f.rekey n none).key m = some (q, u, .sending) := by
  simp only [forget_sends, rekey_none]
  constructor
  · rintro ⟨x, hx, hn⟩
    obtain ⟨q, u, e⟩ := (h.sending _).mp ⟨x, hx⟩
    exact ⟨q, u, e, hn⟩
  · rintro ⟨q, u, e, hn⟩
    obtain ⟨x, hx⟩ := (h.sending m).mpr ⟨q, u, e⟩
    exact ⟨x, hx, hn⟩

theorem mem_erase {u : Target} {m : RecId} : m ∈ (f.queue u).erase n ↔ m ∈ f.queue u ∧ m ≠ n := by
  rw [(h.once u).mem_erase_iff, and_comm]

theorem discardQueued (hk : f.key n = some (p, t, st)) (hst : st ≠ .assembling) : (f.discardQueued n t).Ok := by
  have hmem : n ∈ f.queue t := (h.queues t n).mpr ⟨p, st, hk, hst⟩
  have head {u : Target} {m : RecId} (hu : (f.queue u).head? = some m) (hm : m ≠ n) :
      (if u = t then (f.queue u).erase n else f.queue u).head? = some m := by
    split
    · exact head?_erase_of_ne hu (Ne.symm hm)
    · exact hu
  refine ⟨fun q m => ?_, fun u m => ?_, fun u => ?_, h.loaned_forget, fun k l hl => ?_, fun k k' l l' hl hl' => ?_,
    h.sending_forget, fun x m hx => ?_, fun u hu => ?_, fun u hu => ?_⟩
  · refine (h.slots q m).trans ⟨?_, ?_⟩
    · rintro ⟨u, e⟩
      refine ⟨u, rekey_none.mpr ⟨e, ?_⟩⟩
      rintro rfl
      rw [hk] at e
      cases e
      exact hst rfl
    · rintro ⟨u, e⟩
      exact ⟨u, (rekey_none.mp e).1⟩
  · have e : m ∈ (f.discardQueued n t).queue u ↔ m ∈ f.queue u ∧ m ≠ n := by
      simp only [Files.discardQueued]
      split
      · exact h.mem_erase
      · rename_i hu
        refine ⟨fun hm => ⟨hm, ?_⟩, And.left⟩
        rintro rfl
        exact hu (h.target_unique hm hmem)
    rw [e, h.queues u m]
    constructor
    · rintro ⟨⟨q, s, e1, e2⟩, hm⟩
      exact ⟨q, s, rekey_none.mpr ⟨e1, hm⟩, e2⟩
    · rintro ⟨q, s, e1, e2⟩
      obtain ⟨e1, hm⟩ := rekey_none.mp e1
      exact ⟨⟨q, s, e1, e2⟩, hm⟩
  · simp only [Files.discardQueued]
    split
    · exact (h.once u).erase n
    · exact h.once u
  · obtain ⟨hl, hn⟩ := forget_loan.mp hl
    exact head (h.loanHead k l hl) hn
  · exact h.apart k k' l l' (forget_loan.mp hl).1 (forget_loan.mp hl').1
  · obtain ⟨hx, hn⟩ := forget_sends.mp hx
    obtain ⟨c, hc⟩ := h.sendHead x m hx
    exact ⟨c, head hc hn⟩
  · have hc := f.count_rekey n none u
    have e1 : assembling u (f.key n) = false := by simp [hk, assembling, hst]
    have e2 : assembling u none = false := rfl
    simp only [e1, e2, Bool.false_eq_true, if_false, Nat.add_zero] at hc
    exact (h.reserved u hu).trans hc.symm
  · have hb := h.bounded u hu
    have hle : (if u = t then (f.queue u).erase n else f.queue u).length ≤ (f.queue u).length := by
      split
      · exact List.length_erase_le
      · exact le_rfl
    exact (Nat.add_le_add_right hle _).trans hb

/-- The record in a slot is named by no port and no transmitter. -/
theorem forget_assembling (hk : f.key n = some (p, t, .assembling)) :
    (∀ k l, f.loan k = some l → l.recId ≠ n) ∧ ∀ x m, f.sends x = some m → m ≠ n := by
  constructor
  · rintro k l hl rfl
    obtain ⟨q, u, e⟩ := (h.loaned _).mp ⟨k, l, hl, rfl⟩
    rw [hk] at e
    cases e
  · rintro x m hx rfl
    obtain ⟨q, u, e⟩ := (h.sending _).mp ⟨x, hx⟩
    rw [hk] at e
    cases e

/-- The slots after the record in one is there no longer. -/
theorem slots_out (hk : f.key n = some (p, t, .assembling)) {k : Option (Party × Target × RecState)}
    (hk' : ∀ q u, k ≠ some (q, u, .assembling)) (q : Party) (m : RecId) :
    (if q = p then none else f.slot q) = some m ↔ ∃ u, (f.rekey n k).key m = some (q, u, .assembling) := by
  have hs := (h.slots p n).mpr ⟨t, hk⟩
  simp only [rekey_key]
  split
  · rename_i e
    subst e
    simp only [reduceCtorEq, false_iff, not_exists]
    intro u
    split
    · exact hk' _ _
    · rename_i hm
      intro e
      have := (h.slots q m).mpr ⟨u, e⟩
      rw [hs] at this
      cases this
      exact hm rfl
  · rename_i hq
    rw [h.slots q m]
    split
    · rename_i e
      subst e
      constructor
      · rintro ⟨u, e⟩
        rw [hk] at e
        cases e
        exact absurd rfl hq
      · rintro ⟨u, e⟩
        exact absurd e (hk' _ _)
    · rfl

/-- The places reserved after an assembling record is assembling no longer. -/
theorem reserved_out (hk : f.key n = some (p, t, .assembling)) {k : Option (Party × Target × RecState)}
    (hk' : ∀ u, assembling u k = false) {u : Target} (hu : u ≠ .drop) :
    (if u = t then f.reserved u - 1 else f.reserved u) =
        ((List.finRange 128).filter fun m => assembling u ((f.rekey n k).key m)).length ∧
      (u = t → 1 ≤ f.reserved u) := by
  have hc := f.count_rekey n k u
  have hr := h.reserved u hu
  simp only [hk' u, Bool.false_eq_true, if_false, Nat.add_zero] at hc
  have e : assembling u (f.key n) = decide (u = t) := by simp [hk, assembling, eq_comm]
  rw [e] at hc
  split
  · rename_i e
    simp only [e, decide_true, if_true] at hc hr ⊢
    omega
  · rename_i e
    simp only [e, decide_false, Bool.false_eq_true, if_false] at hc ⊢
    exact ⟨by omega, fun c => absurd c id⟩

theorem discardAssembling (hk : f.key n = some (p, t, .assembling)) : (f.discardAssembling n p t).Ok := by
  obtain ⟨unlent, unsent⟩ := h.forget_assembling hk
  refine ⟨h.slots_out hk (by simp), fun u m => ?_, h.once, h.loaned_forget, fun k l hl => h.loanHead k l (forget_loan.mp hl).1,
    fun k k' l l' hl hl' => h.apart k k' l l' (forget_loan.mp hl).1 (forget_loan.mp hl').1,
    h.sending_forget, fun x m hx => h.sendHead x m (forget_sends.mp hx).1,
    fun u hu => (h.reserved_out hk (fun _ => rfl) hu).1, fun u hu => ?_⟩
  · refine (h.queues u m).trans ⟨?_, ?_⟩
    · rintro ⟨q, s, e1, e2⟩
      refine ⟨q, s, rekey_none.mpr ⟨e1, ?_⟩, e2⟩
      rintro rfl
      rw [hk] at e1
      cases e1
      exact e2 rfl
    · rintro ⟨q, s, e1, e2⟩
      exact ⟨q, s, (rekey_none.mp e1).1, e2⟩
  · have hb := h.bounded u hu
    have hle : (if u = t then f.reserved u - 1 else f.reserved u) ≤ f.reserved u := by
      split
      · exact Nat.sub_le _ _
      · exact le_rfl
    exact (Nat.add_le_add_left hle _).trans hb

/-- A record in no queue yet. -/
theorem not_mem_assembling (hk : f.key n = some (p, t, .assembling)) (u : Target) : n ∉ f.queue u := by
  intro hm
  obtain ⟨q, s, e1, e2⟩ := (h.queues u n).mp hm
  rw [hk] at e1
  cases e1
  exact e2 rfl

theorem commit (hk : f.key n = some (p, t, .assembling)) : (f.commit n p t).Ok := by
  obtain ⟨unlent, unsent⟩ := h.forget_assembling hk
  have head {u : Target} {m : RecId} (hu : (f.queue u).head? = some m) :
      (if u = t then f.queue u ++ [n] else f.queue u).head? = some m := by
    split
    · rw [List.head?_append, hu]; rfl
    · exact hu
  refine ⟨h.slots_out hk (by simp), fun u m => ?_, fun u => ?_, fun m => ?_, fun k l hl => head (h.loanHead k l hl), h.apart,
    fun m => ?_, fun x m hx => ?_, fun u hu => (h.reserved_out hk (fun _ => by simp [assembling]) hu).1, fun u hu => ?_⟩
  · have e : m ∈ (f.commit n p t).queue u ↔ m ∈ f.queue u ∨ m = n ∧ u = t := by
      simp only [Files.commit]
      split
      · rename_i e; simp [e]
      · rename_i e; simp [e]
    rw [e, h.queues u m]
    simp only [Files.commit, rekey_key]
    split
    · rename_i hm
      subst hm
      simp [hk, eq_comm]
    · rename_i hm
      simp [hm]
  · simp only [Files.commit]
    split
    · exact List.Nodup.append (h.once u) (List.nodup_singleton n) (by simpa using h.not_mem_assembling hk u)
    · exact h.once u
  · refine (h.loaned m).trans ?_
    simp only [Files.commit, rekey_key]
    split
    · rename_i hm; subst hm; simp [hk]
    · rfl
  · refine (h.sending m).trans ?_
    simp only [Files.commit, rekey_key]
    split
    · rename_i hm; subst hm; simp [hk]
    · rfl
  · obtain ⟨c, hc⟩ := h.sendHead x m hx
    exact ⟨c, head hc⟩
  · have hb := h.bounded u hu
    have h1 := (h.reserved_out hk (k := none) (fun _ => rfl) hu).2
    simp only [Files.commit]
    split
    · rename_i e
      have := h1 e
      simp only [List.length_append, List.length_singleton]
      exact (by omega : (f.queue u).length + 1 + (f.reserved u - 1) ≤ f.cap u)
    · exact hb

theorem undeliver {x : LinkId} (hx : f.sends x = some n) (hk : f.key n = some (p, t, st))
    (room : (f.queue .uq).length + f.reserved .uq < f.cap .uq) : (f.undeliver x n p t).Ok := by
  have hsnd := h.requeue hx hk
  obtain ⟨p', t', hk'⟩ := (h.sending n).mp ⟨x, hx⟩
  rw [hk] at hk'
  cases hk'
  have hmem : n ∈ f.queue t := (h.queues t n).mpr ⟨p, _, hk, by simp⟩
  obtain ⟨c, hc⟩ := h.sends_mem hx
  cases h.target_unique hc hmem
  have hnuq : n ∉ f.queue .uq := fun c => by cases h.target_unique c hmem
  have head {u : Target} {m : RecId} (hu : (f.queue u).head? = some m) (hm : m ≠ n) :
      ((f.undeliver x n p (.queue ⟨.link x, c⟩)).queue u).head? = some m := by
    simp only [Files.undeliver]
    split
    · rw [List.head?_append, hu]; rfl
    · split
      · exact head?_erase_of_ne hu (Ne.symm hm)
      · exact hu
  refine ⟨fun q m => ?_, fun u m => ?_, fun u => ?_, fun m => ?_, fun k l hl => ?_, h.apart, fun m => ?_, fun y m hy => ?_,
    fun u hu => ?_, fun u hu => ?_⟩
  · refine (hsnd.slots q m).trans ?_
    simp only [Files.undeliver, rekey_key]
    split
    · simp
    · rfl
  · have e : m ∈ (f.undeliver x n p (.queue ⟨.link x, c⟩)).queue u ↔ m ∈ f.queue u ∧ m ≠ n ∨ m = n ∧ u = .uq := by
      simp only [Files.undeliver]
      split
      · rename_i e
        subst e
        simp only [List.mem_append, List.mem_singleton, and_true]
        refine or_congr_left ⟨fun hm => ⟨hm, ?_⟩, And.left⟩
        rintro rfl
        exact hnuq hm
      · rename_i e
        simp only [e, and_false, or_false]
        split
        · exact h.mem_erase
        · rename_i hu
          refine ⟨fun hm => ⟨hm, ?_⟩, And.left⟩
          rintro rfl
          exact hu (h.target_unique hm hmem)
    rw [e, h.queues u m]
    simp only [Files.undeliver, rekey_key]
    split
    · rename_i hm; simp [hm, eq_comm]
    · rename_i hm; simp [hm]
  · simp only [Files.undeliver]
    split
    · rename_i e
      subst e
      exact List.Nodup.append (h.once _) (List.nodup_singleton n) (by simpa using hnuq)
    · split
      · exact (h.once u).erase n
      · exact h.once u
  · refine (hsnd.loaned m).trans ?_
    simp only [Files.undeliver, rekey_key]
    split
    · simp
    · rfl
  · refine head (h.loanHead k l hl) ?_
    rintro rfl
    obtain ⟨q, u, e⟩ := (h.loaned _).mp ⟨k, l, hl, rfl⟩
    rw [hk] at e
    cases e
  · refine (hsnd.sending m).trans ?_
    simp only [Files.undeliver, rekey_key]
    split
    · simp
    · rfl
  · obtain ⟨hne, hy⟩ : y ≠ x ∧ f.sends y = some m := by
      simp only [Files.undeliver] at hy
      split at hy
      · cases hy
      · exact ⟨‹_›, hy⟩
    obtain ⟨c', hc'⟩ := h.sendHead y m hy
    refine ⟨c', head hc' fun e => hne (h.sends_apart hy (e ▸ hx))⟩
  · refine (hsnd.reserved u hu).trans ?_
    congr 2
    funext m
    simp only [Files.undeliver, rekey_key]
    split <;> simp [assembling]
  · have hb := h.bounded u hu
    simp only [Files.undeliver]
    split
    · rename_i e
      subst e
      simp only [List.length_append, List.length_singleton]
      exact (by omega : (f.queue .uq).length + 1 + f.reserved .uq ≤ f.cap .uq)
    · split
      · exact (Nat.add_le_add_right List.length_erase_le _).trans hb
      · exact hb

theorem create (hk : f.key n = none) (hs : f.slot p = none)
    (room : t ≠ .drop → (f.queue t).length + f.reserved t < f.cap t) : (f.create n p t).Ok := by
  refine ⟨fun q m => ?_, fun u m => ?_, h.once, fun m => ?_, h.loanHead, h.apart, fun m => ?_, h.sendHead,
    fun u hu => ?_, fun u hu => ?_⟩
  · simp only [Files.create, rekey_key]
    by_cases hm : m = n
    · subst hm
      rw [if_pos rfl]
      split
      · rename_i e; simp [e]
      · rename_i e
        rw [h.slots q m]
        simp [hk, Ne.symm e]
    · rw [if_neg hm, ← h.slots q m]
      split
      · rename_i e; subst e; simp [hs, Ne.symm hm]
      · rfl
  · refine (h.queues u m).trans ?_
    simp only [Files.create, rekey_key]
    split
    · rename_i e; subst e; simp [hk]
    · rfl
  · refine (h.loaned m).trans ?_
    simp only [Files.create, rekey_key]
    split
    · rename_i e; subst e; simp [hk]
    · rfl
  · refine (h.sending m).trans ?_
    simp only [Files.create, rekey_key]
    split
    · rename_i e; subst e; simp [hk]
    · rfl
  · have hc := f.count_rekey n (some (p, t, .assembling)) u
    have e1 : assembling u (f.key n) = false := by simp [hk, assembling]
    have e2 : assembling u (some (p, t, .assembling)) = decide (u = t) := by simp [assembling, eq_comm]
    have hr := h.reserved u hu
    simp only [e1, e2, Bool.false_eq_true, if_false, Nat.add_zero, ← hr] at hc
    refine Eq.trans ?_ hc.symm
    simp only [Files.create, decide_eq_true_eq, hu, ne_eq, not_false_eq_true, and_true]
    split <;> rfl
  · have hb := h.bounded u hu
    simp only [Files.create]
    split
    · rename_i e
      obtain ⟨rfl, -⟩ := e
      exact room hu
    · exact hb

end Ok

end Files

end Sys2Proof.Safety
end

section
/-! SUPPORT. What each move does to the files, and that every move keeps them in order. -/

namespace Sys2Proof.Safety

open Sys2Proof.Machine

section
variable {s t : State} {n : RecId} {r : Record}

/-- A state that differs in nothing that the files read. -/
theorem filesOf_congr (hr : ∀ m, (t.record m).map Record.key = (s.record m).map Record.key) (hs : t.slots = s.slots)
    (hc : t.classes = s.classes) (hu : t.uq = s.uq) (hl : ∀ k, (t.port k).loan = (s.port k).loan)
    (hx : ∀ x, sends t x = sends s x) : filesOf t = filesOf s := by
  have hq (q : QueueId) : t.qclass q = s.qclass q := by simp only [State.qclass, hc]
  refine Files.ext (funext hr) (funext fun p => ?_) (funext fun u => ?_) (funext fun u => ?_) (funext fun u => ?_)
    (funext hl) (funext hx)
  · simp only [filesOf, State.slot, hs]
  · cases u <;> simp only [filesOf, queueOf, hq, hu]
  · cases u <;> simp only [filesOf, reservedFor, hq, hu]
  · cases u <;> simp only [filesOf, capOf, hq]

theorem capOf_congr (h : ∀ q, (t.qclass q).depth = (s.qclass q).depth) : capOf t = capOf s := by
  funext u
  cases u <;> simp only [capOf, h]

/-- The key of a record is known from the record. -/
theorem filesOf_key (hr : s.record n = some r) : (filesOf s).key n = some (r.origin, r.target, r.state) := by
  simp [filesOf, hr, Record.key]

theorem filesOf_discardOne_queued (hr : s.record n = some r) (hst : r.state ≠ .assembling) :
    filesOf (s.discardOne n) = (filesOf s).discardQueued n r.target := by
  have hne : s.record n ≠ none := by simp [hr]
  refine Files.ext (funext fun m => ?_) (funext fun p => ?_) (funext fun u => ?_) (funext fun u => ?_)
    (capOf_congr (discardOne_depth hr)) (funext fun k => discardOne_loan hne k) (funext fun x => discardOne_sends hne x)
  · show ((s.discardOne n).record m).map Record.key = if m = n then none else (s.record m).map Record.key
    rw [State.discardOne_record]
    simp only [eq_comm (a := n)]
    split <;> rfl
  · exact (discardOne_slot hr p).trans (if_neg fun c => hst c.1)
  · exact (discardOne_queueOf hr u).trans (if_congr (by simp [hst, eq_comm]) rfl rfl)
  · exact (discardOne_reservedFor hr u).trans (if_neg fun c => hst c.1)

theorem filesOf_discardOne_assembling (hr : s.record n = some r) (hst : r.state = .assembling) :
    filesOf (s.discardOne n) = (filesOf s).discardAssembling n r.origin r.target := by
  have hne : s.record n ≠ none := by simp [hr]
  refine Files.ext (funext fun m => ?_) (funext fun p => ?_) (funext fun u => ?_) (funext fun u => ?_)
    (capOf_congr (discardOne_depth hr)) (funext fun k => discardOne_loan hne k) (funext fun x => discardOne_sends hne x)
  · show ((s.discardOne n).record m).map Record.key = if m = n then none else (s.record m).map Record.key
    rw [State.discardOne_record]
    simp only [eq_comm (a := n)]
    split <;> rfl
  · exact (discardOne_slot hr p).trans (if_congr (by simp [hst]) rfl rfl)
  · exact (discardOne_queueOf hr u).trans (if_neg fun c => c.1 hst)
  · exact (discardOne_reservedFor hr u).trans (if_congr (by simp [hst, eq_comm]) rfl rfl)

/-- A record of another key in place of the old one. -/
theorem key_setRecord (s : State) (n : RecId) (r : Record) (m : RecId) :
    ((s.setRecord n (some r)).record m).map Record.key =
      if m = n then some (r.origin, r.target, r.state) else (s.record m).map Record.key := by
  rw [State.setRecord_record]
  simp only [eq_comm (a := n)]
  split <;> rfl

theorem filesOf_committed (ht : r.target ≠ .drop) :
    filesOf (committed s n r) = (filesOf s).commit n r.origin r.target := by
  refine Files.ext (funext fun m => ?_) (funext fun p => ?_) (funext fun u => ?_) (funext fun u => ?_)
    (capOf_congr fun q => ?_) (funext fun k => ?_) (funext fun x => ?_)
  · show ((committed s n r).record m).map Record.key = _
    rw [committed_rest]
    exact key_setRecord s n { r with state := .queued } m
  · show (committed s n r).slot p = _
    rw [committed_rest]
    refine (State.setSlot_slot s r.origin none p).trans (if_congr eq_comm rfl rfl)
  · show queueOf (committed s n r) u = _
    unfold committed
    rw [queueOf_enqueue (ht := ht)]
    simp only [queueOf_releasePlace, queueOf_setRecord, queueOf_setSlot]
    exact if_congr eq_comm rfl rfl
  · show reservedFor (committed s n r) u = _
    unfold committed
    simp only [reservedFor_enqueue, reservedFor_releasePlace, reservedFor_setRecord, reservedFor_setSlot]
    exact if_congr eq_comm rfl rfl
  · unfold committed
    simp
  · show ((committed s n r).port k).loan = _
    rw [committed_rest]
    rfl
  · show sends (committed s n r) x = _
    rw [committed_rest]
    rfl

/-- One place reserved for a target that has places (R61). -/
theorem reservedFor_reservePlace_of (s : State) (t u : Target) :
    reservedFor (s.reservePlace t) u = if u = t ∧ u ≠ .drop then reservedFor s u + 1 else reservedFor s u := by
  by_cases ht : t = .drop
  · subst ht
    rw [if_neg fun c => c.2 c.1]
    rfl
  · rw [reservedFor_reservePlace (ht := ht)]
    exact if_congr ⟨fun e => ⟨e.symm, fun c => ht (e.trans c)⟩, fun e => e.1.symm⟩ rfl rfl

theorem filesOf_posted {k : PortId} {h : PostHeader} {q : QueueId} {c : Nat} :
    filesOf (posted s k h q c n) = (filesOf s).create n (.host k) (.queue q) := by
  refine Files.ext (funext fun m => ?_) (funext fun p => ?_) (funext fun u => ?_) (funext fun u => ?_)
    (capOf_congr fun q => ?_) rfl rfl
  · exact key_setRecord s n (s.postRecord k h q c) m
  · exact (State.setSlot_slot s (.host k) (some n) p).trans (if_congr eq_comm rfl rfl)
  · show queueOf (posted s k h q c n) u = _
    simp [posted, Files.create, Files.rekey, filesOf]
  · show reservedFor (posted s k h q c n) u = _
    simp only [posted, reservedFor_setSlot, reservedFor_setRecord]
    rw [reservedFor_reservePlace_of]
    simp only [reservedFor_setUsed, reservedFor_setFree]
    rfl
  · simp [posted]

theorem filesOf_framed {x : LinkId} {hdr : List Byte} :
    filesOf (framed s x hdr n) =
      (filesOf s).create n (.link x) (s.linkTarget (hdr.getD 0 0) (hdr.getD 2 0)).1 := by
  refine Files.ext (funext fun m => ?_) (funext fun p => ?_) (funext fun u => ?_) (funext fun u => ?_)
    (capOf_congr fun q => ?_) (funext fun k => ?_) (funext fun y => ?_)
  · show ((framed s x hdr n).record m).map Record.key = _
    rw [framed_rest]
    exact key_setRecord s n (linkRecord x hdr _) m
  · show (framed s x hdr n).slot p = _
    rw [framed_rest]
    exact (State.setSlot_slot s (.link x) (some n) p).trans (if_congr eq_comm rfl rfl)
  · show queueOf (framed s x hdr n) u = _
    simp [framed, Files.create, Files.rekey, filesOf]
  · show reservedFor (framed s x hdr n) u = _
    simp only [framed, reservedFor_setSlot, reservedFor_setRecord]
    exact reservedFor_reservePlace_of s _ u
  · simp [framed]
  · show ((framed s x hdr n).port k).loan = _
    rw [framed_rest]
    rfl
  · show sends (framed s x hdr n) y = _
    rw [framed_rest]
    rfl

theorem filesOf_undelivered {x : LinkId} (ht : r.target ≠ .uq) :
    filesOf (undelivered s x n r) = (filesOf s).undeliver x n r.origin r.target := by
  refine Files.ext (funext fun m => ?_) (funext fun p => ?_) (funext fun u => ?_) (funext fun u => ?_)
    (capOf_congr fun q => ?_) (funext fun k => ?_) (funext fun y => ?_)
  · show ((undelivered s x n r).record m).map Record.key = _
    rw [undelivered_rest]
    exact key_setRecord s n { r with target := .uq, reason := some .resends, state := .queued } m
  · show (undelivered s x n r).slot p = _
    rw [undelivered_rest]
    rfl
  · show queueOf (undelivered s x n r) u = _
    unfold undelivered
    rw [queueOf_enqueue (ht := by simp)]
    simp only [queueOf_setRecord, queueOf_unqueue, queueOf_setLink, Files.undeliver]
    by_cases hu : u = .uq
    · subst hu; simp [ht, filesOf]
    · rw [if_neg (Ne.symm hu), if_neg hu]
      exact if_congr eq_comm rfl rfl
  · show reservedFor (undelivered s x n r) u = _
    simp [undelivered, Files.undeliver, Files.rekey, filesOf]
  · simp [undelivered]
  · show ((undelivered s x n r).port k).loan = _
    rw [undelivered_rest]
    rfl
  · show sends (undelivered s x n r) y = _
    rw [undelivered_rest]
    unfold Safety.sends
    refine (congrArg (fun l => l.sending.map (·.recId)) (State.setLink_link s x { s.link x with sending := none } y)).trans ?_
    simp only [Files.undeliver, eq_comm (a := x)]
    split <;> rfl

theorem filesOf_setRecord (s : State) (n : RecId) (r : Record) :
    filesOf (s.setRecord n (some r)) = (filesOf s).rekey n (some (r.origin, r.target, r.state)) :=
  Files.ext (funext fun m => key_setRecord s n r m) rfl (funext fun u => queueOf_setRecord s n u _)
    (funext fun u => reservedFor_setRecord s n u _) rfl rfl rfl

/-- A record in another state, and nothing else that the files read. -/
theorem filesOf_setRecState (hr : s.record n = some r) (st : RecState) :
    filesOf (s.setRecState n st) = (filesOf s).rekey n (some (r.origin, r.target, st)) := by
  rw [State.setRecState_spec, hr]
  exact filesOf_setRecord s n { r with state := st }

theorem filesOf_setLink (s : State) (x : LinkId) (l : Link) :
    filesOf (s.setLink x l) =
      { filesOf s with sends := fun y => if y = x then l.sending.map (·.recId) else (filesOf s).sends y } := by
  refine Files.ext rfl rfl (funext fun u => queueOf_setLink s u x l) (funext fun u => reservedFor_setLink s u x l) rfl rfl
    (funext fun y => ?_)
  unfold filesOf Safety.sends
  simp only [State.setLink_link, eq_comm (a := x)]
  split <;> rfl

theorem filesOf_setPort (s : State) (k : PortId) (p : Port) :
    filesOf (s.setPort k p) = { filesOf s with loan := fun j => if j = k then p.loan else (filesOf s).loan j } := by
  refine Files.ext rfl rfl (funext fun u => queueOf_setPort s u k p) (funext fun u => reservedFor_setPort s u k p) rfl
    (funext fun j => ?_) rfl
  unfold filesOf
  simp only [State.setPort_port, eq_comm (a := k)]
  split <;> rfl

end

end Sys2Proof.Safety
end

section
/-! SUPPORT. Every move keeps the files in order. -/

namespace Sys2Proof.Safety

open Sys2Proof.Machine

section
variable {s t : State}

/-- The target decided at a header has room (R51, R65). -/
theorem linkTarget_room (s : State) (dst control : Byte) (ht : (s.linkTarget dst control).1 ≠ .drop) :
    (queueOf s (s.linkTarget dst control).1).length + reservedFor s (s.linkTarget dst control).1 <
      capOf s (s.linkTarget dst control).1 := by
  have redirect (reason : Reason) (h : (s.redirect reason).1 ≠ .drop) :
      (queueOf s (s.redirect reason).1).length + reservedFor s (s.redirect reason).1 < capOf s (s.redirect reason).1 := by
    unfold State.redirect at *
    split at h
    · rename_i hr; rw [if_pos hr]; exact hr
    · exact absurd rfl h
  unfold State.linkTarget at *
  split at ht
  · exact redirect _ ht
  · exact redirect _ ht
  · rename_i d hd
    simp only at ht ⊢
    split at ht
    · rename_i hr; rw [if_pos hr]; exact hr
    · rename_i hr; rw [if_neg hr]; exact redirect _ ht

/-- A record stored to or taken for keeps its key. -/
theorem filesOf_setRecord_same {n : RecId} {r r' : Record} (hr : s.record n = some r) (hk : Record.key r' = Record.key r) :
    filesOf (s.setRecord n (some r')) = filesOf s := by
  refine filesOf_congr (fun m => ?_) rfl rfl rfl (fun _ => rfl) fun _ => rfl
  rw [State.setRecord_record]
  split
  · rename_i e; subst e; simp [hr, hk]
  · rfl

theorem filesOf_setPort_same {k : PortId} {p : Port} (h : p.loan = (s.port k).loan) :
    filesOf (s.setPort k p) = filesOf s := by
  rw [filesOf_setPort, h]
  refine Files.ext rfl rfl rfl rfl rfl (funext fun j => ?_) rfl
  simp only [filesOf]
  split
  · rename_i e; rw [e]
  · rfl

theorem filesOf_storePayload (s : State) (n : RecId) (b : Byte) : filesOf (s.storePayload n b) = filesOf s := by
  unfold State.storePayload
  split
  · rfl
  · rename_i r hr
    split
    · rfl
    · rename_i a _
      exact (filesOf_setRecord_same (s := s.setMem (s.mem.write a b)) hr (by rfl)).trans
        (filesOf_congr (fun _ => rfl) rfl rfl rfl (fun _ => rfl) fun _ => rfl)

/-- A change of one link that names the same record as before. -/
theorem filesOf_setLink_same {x : LinkId} {l : Link} (h : l.sending.map (·.recId) = sends s x) :
    filesOf (s.setLink x l) = filesOf s := by
  rw [filesOf_setLink, h]
  refine Files.ext rfl rfl rfl rfl rfl rfl (funext fun y => ?_)
  simp only [filesOf]
  split
  · rename_i e; rw [e]
  · rfl

theorem filesOf_discardOne_ok (h : (filesOf s).Ok) (n : RecId) : (filesOf (s.discardOne n)).Ok := by
  cases hr : s.record n with
  | none => rwa [State.discardOne_none hr]
  | some r =>
    by_cases hst : r.state = .assembling
    · rw [filesOf_discardOne_assembling hr hst]
      exact h.discardAssembling (by rw [filesOf_key hr, hst])
    · rw [filesOf_discardOne_queued hr hst]
      exact h.discardQueued (filesOf_key hr) hst

/-- A record in a queue is in use. -/
theorem Files.Ok.record_of_mem (h : (filesOf s).Ok) {u : Target} {n : RecId} (hn : n ∈ queueOf s u) :
    ∃ r, s.record n = some r ∧ r.target = u ∧ r.state ≠ .assembling := by
  obtain ⟨p, st, hk, hst⟩ := (h.queues u n).mp hn
  obtain ⟨r, hr, e⟩ := key_eq_some.mp hk
  cases e
  exact ⟨r, hr, rfl, hst⟩

/-- The files of a state with no record, slot, queued record, reserved place, loan or sending record are in order. -/
theorem Files.Ok.of_empty {f : Files} (hk : ∀ n, f.key n = none) (hs : ∀ p, f.slot p = none) (hq : ∀ t, f.queue t = [])
    (hr : ∀ t, f.reserved t = 0) (hl : ∀ k, f.loan k = none) (hx : ∀ x, f.sends x = none) : f.Ok where
  slots p n := by simp [hk, hs]
  queues t n := by simp [hk, hq]
  once t := by simp [hq]
  loaned n := by simp [hk, hl]
  loanHead k l h := by simp [hl] at h
  apart k k' l l' h := by simp [hl] at h
  sending n := by simp [hk, hx]
  sendHead x n h := by simp [hx] at h
  reserved t ht := by simp [hk, hr, assembling]
  bounded t ht := by simp [hq, hr]

/-- Power-on reset empties the files. -/
theorem reset_filesOk : (filesOf State.reset).Ok := by
  refine .of_empty (fun n => ?_) (fun p => vget_replicate _ _) (fun u => ?_) (fun u => ?_) (fun k => ?_) fun x => ?_
  · exact congrArg (Option.map Record.key) (vget_replicate none n)
  · cases u with
    | queue q => exact congrArg QueueClass.recs (vget_replicate _ q.num)
    | uq => rfl
    | drop => rfl
  · cases u with
    | queue q => exact congrArg QueueClass.reserved (vget_replicate _ q.num)
    | uq => rfl
    | drop => rfl
  · rcases port_cases k with rfl | rfl | rfl | rfl <;> rfl
  · exact congrArg (fun l : Link => l.sending.map (·.recId)) (vget_replicate _ x)

theorem powerOn_files {s t : State} (h : execPowerOnReset s = .next t) : filesOf t = filesOf State.reset := by
  cases h
  refine filesOf_congr (fun _ => rfl) rfl rfl rfl (fun k => ?_) fun _ => rfl
  rcases port_cases k with rfl | rfl | rfl | rfl <;> rfl

/-- So does a restart. -/
theorem restart_files (s : State) (k : PortId) : (filesOf (s.restartAll k)).Ok := by
  refine .of_empty (fun n => ?_) (fun p => vget_replicate _ _) (fun u => ?_) (fun u => ?_) (fun j => ?_) fun x => ?_
  · exact congrArg (Option.map Record.key) (vget_replicate none n)
  · cases u with
    | queue q => exact congrArg QueueClass.recs (vget_map _ _ q.num)
    | uq => rfl
    | drop => rfl
  · cases u with
    | queue q => exact congrArg QueueClass.reserved (vget_map _ _ q.num)
    | uq => rfl
    | drop => rfl
  · have e : (s.restartAll k).port j = if k = j then (s.port k).restartOwn else (s.port j).restartOther := by
      simp [State.restartAll, State.port, vget_map]
    simp only [filesOf, e]
    split <;> rfl
  · exact congrArg (fun l : Link => l.sending.map (·.recId)) (vget_map _ _ x)

/-- The loan of a port, with its record. -/
theorem Files.Ok.loan_record (h : (filesOf s).Ok) {k : PortId} {l : Loan} (hl : (s.port k).loan = some l) :
    ∃ r, s.record l.recId = some r ∧ r.state = .loaned := by
  obtain ⟨p, u, e⟩ := (h.loaned l.recId).mp ⟨k, l, hl, rfl⟩
  obtain ⟨r, hr, e⟩ := key_eq_some.mp e
  exact ⟨r, hr, congrArg (·.2.2) e⟩

theorem Files.Ok.sends_record (h : (filesOf s).Ok) {x : LinkId} {n : RecId} (hx : Safety.sends s x = some n) :
    ∃ r, s.record n = some r ∧ r.state = .sending := by
  obtain ⟨p, u, e⟩ := (h.sending n).mp ⟨x, hx⟩
  obtain ⟨r, hr, e⟩ := key_eq_some.mp e
  exact ⟨r, hr, congrArg (·.2.2) e⟩

theorem Files.Ok.slot_record (h : (filesOf s).Ok) {p : Party} {n : RecId} (hn : s.slot p = some n) :
    ∃ r, s.record n = some r ∧ r.origin = p ∧ r.state = .assembling := by
  obtain ⟨u, e⟩ := (h.slots p n).mp hn
  obtain ⟨r, hr, e⟩ := key_eq_some.mp e
  exact ⟨r, hr, congrArg (·.1) e, congrArg (·.2.2) e⟩

/-- Another depth limit (R63). -/
theorem filesOf_setDepth (s : State) (q : QueueId) (d : Nat) :
    filesOf (s.setClass q { s.qclass q with depth := d }) =
      { filesOf s with cap := capOf (s.setClass q { s.qclass q with depth := d }) } := by
  refine Files.ext rfl rfl (funext fun u => ?_) (funext fun u => ?_) rfl rfl rfl
  · cases u with
    | queue q' =>
      simp only [filesOf, queueOf, State.setClass_qclass]
      split
      · rename_i e; rw [e]
      · rfl
    | uq => rfl
    | drop => rfl
  · cases u with
    | queue q' =>
      simp only [filesOf, reservedFor, State.setClass_qclass]
      split
      · rename_i e; rw [e]
      · rfl
    | uq => rfl
    | drop => rfl

theorem Files.Ok.recap {f : Files} (h : f.Ok) {cap : Target → Nat}
    (hc : ∀ u, u ≠ .drop → (f.queue u).length + f.reserved u ≤ cap u) : Files.Ok { f with cap := cap } :=
  ⟨h.slots, h.queues, h.once, h.loaned, h.loanHead, h.apart, h.sending, h.sendHead, h.reserved, hc⟩

theorem Move.filesOk {G : Prop} {P : Option Party} (g : G) (hm : Move G P s t) (h : (filesOf s).Ok)
    (role : ∀ k l, (s.port k).loan = some l → l.queue = .uq → s.manager = some k) : (filesOf t).Ok := by
  have same (e : filesOf t = filesOf s) : (filesOf t).Ok := e ▸ h
  cases hm with
  | marks | items | accounts | manager =>
    exact same (filesOf_congr (fun _ => rfl) rfl rfl rfl (fun _ => rfl) fun _ => rfl)
  | raiseMgr e =>
    exact same (filesOf_congr (fun _ => rfl) rfl rfl rfl (fun k => by rw [State.raiseMgr_port]; rfl) fun _ => rfl)
  | store n r b => exact same (filesOf_storePayload s n b)
  | ports ps loan phase sound =>
    exact same (filesOf_congr (fun _ => rfl) rfl rfl rfl loan fun _ => rfl)
  | link x l reserved sending laws ctrl header abm =>
    refine same (filesOf_setLink_same ?_)
    rcases sending with e | ⟨e, hnone⟩
    · exact e
    · have hs : (s.link x).sending = none := by
        cases hs : (s.link x).sending with
        | none => rfl
        | some sd =>
          obtain ⟨r, hr, -⟩ := h.sends_record (sends_eq_some.mpr ⟨sd, hs, rfl⟩)
          rw [hnone sd hs] at hr
          cases hr
      simp [e, Safety.sends, hs]
  | reserve x c rest free can =>
    exact same ((filesOf_congr (s := (s.setFree rest).setLink x _) (fun _ => rfl) rfl rfl rfl (fun _ => rfl) fun _ => rfl).trans
      ((filesOf_setLink_same (by rfl)).trans (filesOf_congr (fun _ => rfl) rfl rfl rfl (fun _ => rfl) fun _ => rfl)))
  | returnAll x =>
    exact same ((filesOf_setLink_same (by rfl)).trans (filesOf_congr (fun _ => rfl) rfl rfl rfl (fun _ => rfl) fun _ => rfl))
  | discard n place => exact filesOf_discardOne_ok h n
  | take x n r c rest b reserved record short opens slot =>
    refine same ((filesOf_storePayload _ n b).trans ?_)
    exact (filesOf_setRecord_same (s := s.setLink x _) record (by rfl)).trans (filesOf_setLink_same (by rfl))
  | commit n r record full slot target =>
    obtain ⟨hslot, -⟩ := slot g
    obtain ⟨r', hr', -, hst⟩ := h.slot_record hslot
    rw [record] at hr'
    cases hr'
    rw [filesOf_committed (target g)]
    exact h.commit (by rw [filesOf_key record, hst])
  | choose x n active free abm head =>
    obtain ⟨c, hc⟩ := head
    obtain ⟨r, hr, -, hst⟩ := h.record_of_mem (u := .queue ⟨.link x, c⟩) (List.mem_of_mem_head? hc)
    rw [filesOf_setLink, filesOf_setRecState hr]
    exact h.choose (filesOf_key hr) hc (by simp [filesOf, sends, free])
  | lend k n q free head hrole =>
    obtain ⟨r, hr, -, hst⟩ := h.record_of_mem (List.mem_of_mem_head? head)
    unfold State.lend
    rw [filesOf_setPort, filesOf_setRecState hr]
    refine h.lend (l := { recId := n, queue := q }) (filesOf_key hr) head free fun k' l' hl' hu' hu => ?_
    have h1 := role k' l' hl' hu'
    rw [hrole hu] at h1
    cases h1
    rfl
  | clearLoan k =>
    rcases s.clearLoan_cases k with ⟨-, e⟩ | ⟨l, hl, e⟩
    · rwa [e]
    · obtain ⟨r, hr, -⟩ := h.loan_record hl
      rw [e, filesOf_setPort, filesOf_setRecState hr]
      exact h.clearLoan hl (filesOf_key hr)
  | requeue x sd r resends due sending record count =>
    unfold requeued
    rw [filesOf_setLink, filesOf_setRecord]
    exact h.requeue (p := r.origin) (t := r.target) (sends_eq_some.mpr ⟨sd, sending, rfl⟩) (filesOf_key record)
  | undeliver x sd r sending record room =>
    have hx : sends s x = some sd.recId := sends_eq_some.mpr ⟨sd, sending, rfl⟩
    obtain ⟨c, hc⟩ := h.sends_mem hx
    obtain ⟨r', hr', ht, -⟩ := h.record_of_mem (u := .queue ⟨.link x, c⟩) hc
    rw [record] at hr'
    cases hr'
    rw [filesOf_undelivered (by rw [ht]; simp)]
    exact h.undeliver hx (filesOf_key record) room
  | post k hd q n m record judged slot party =>
    obtain ⟨-, -, -, -, -, room, -⟩ := judgePost_taken judged
    rw [filesOf_posted]
    exact h.create (by simp [filesOf, record]) (slot g) fun _ => room
  | frame x hdr n record length slot party =>
    rw [filesOf_framed]
    exact h.create (by simp [filesOf, record]) (slot g) fun ht => linkTarget_room s _ _ ht
  | depth q d range room budget =>
    rw [filesOf_setDepth]
    refine h.recap fun u hu => ?_
    cases u with
    | queue q' =>
      simp only [capOf, State.setClass_qclass]
      split
      · rename_i e; subst e; exact room
      · exact h.bounded (.queue q') hu
    | uq => exact h.bounded .uq hu
    | drop => exact absurd rfl hu
  | closeEvents k p b loan phase sound =>
    exact same ((filesOf_congr (s := s.setPort k p) (fun _ => rfl) rfl rfl rfl (fun _ => rfl) fun _ => rfl).trans
      (filesOf_setPort_same loan))
  | restart k tx => exact restart_files s k
  | reset t ht => exact powerOn_files ht ▸ reset_filesOk

end

end Sys2Proof.Safety
end

section
/-! SUPPORT. What every move keeps of the single records (R6, R8, R16) and of the charges (R23). -/

namespace Sys2Proof.Safety

open Sys2Proof.Machine

/-! ### Records -/

/-- Every record in use is in its ranges and has the cells it needs. -/
def RecordsOk (s : State) : Prop := ∀ n r, s.record n = some r → RecordLaws r ∧ CellsFit r

section
variable {s t : State}

theorem RecordsOk.congr (h : RecordsOk s) (hr : t.records = s.records) : RecordsOk t := fun n r hn =>
  h n r (by rwa [State.record, hr] at hn)

/-- One record replaced by a lawful one. -/
theorem RecordsOk.setRecord (h : RecordsOk s) {n : RecId} {r : Record} (hr : RecordLaws r ∧ CellsFit r) :
    RecordsOk (s.setRecord n (some r)) := by
  intro m r' hm
  rw [State.setRecord_record] at hm
  split at hm
  · cases hm; exact hr
  · exact h m r' hm

/-- A committed record in another state, with its resends in range. -/
theorem RecordLaws.restate {r : Record} (h : RecordLaws r ∧ CellsFit r) (hst : r.state ≠ .assembling) (st : RecState)
    {resends : Nat} (hn : resends ≤ 7) :
    RecordLaws { r with state := st, resends := resends } ∧ CellsFit { r with state := st, resends := resends } := by
  obtain ⟨⟨h1, h2, h3, h4, h5, h6, h7⟩, g1, g2⟩ := h
  exact ⟨⟨h1, h2, h3, h4, h5, fun c => absurd (h6 c).1 hst, hn⟩, fun _ => g1 hst, g2⟩

theorem RecordsOk.setRecState (h : RecordsOk s) {n : RecId} {r : Record} (hr : s.record n = some r)
    (hst : r.state ≠ .assembling) (st : RecState) : RecordsOk (s.setRecState n st) := by
  rw [State.setRecState_spec, hr]
  exact h.setRecord (RecordLaws.restate (h n r hr) hst st (h n r hr).1.resends)

/-- The cells that one more byte needs (R2). -/
theorem cellsOf_succ (n : Nat) : cellsOf (n + 1) = if n % Config.cellBytes = 0 then cellsOf n + 1 else cellsOf n := by
  simp only [cellsOf, Config.cellBytes]
  split <;> omega

/-- What a reason and a target of a link message say of one another (R51). -/
theorem redirect_laws (s : State) (reason : Reason) :
    ((s.redirect reason).2 ≠ none ↔ (s.redirect reason).1 = .uq) ∧ ∀ q, (s.redirect reason).1 ≠ .queue q := by
  unfold State.redirect
  split <;> simp

theorem lookup_link {a : Byte} {hops : BitVec 4} {x : LinkId} (h : s.lookup a hops = .output (.link x)) : hops ≠ 0 := by
  unfold State.lookup at h
  split at h
  · cases h
  · split at h
    · cases h
    · split at h
      · cases h
      · assumption

/-- What the target decided at a header says of the record (R47, R51, R65). -/
theorem linkTarget_laws (s : State) (dst control : Byte) :
    ((s.linkTarget dst control).2 ≠ none ↔ (s.linkTarget dst control).1 = .uq) ∧
      ∀ q, (s.linkTarget dst control).1 = .queue q →
        q.cls = controlClass control ∧ s.lookup dst (controlHops control) = .output q.dest := by
  have go (reason : Reason) (q : QueueId) (e : (s.redirect reason).1 = .queue q) :
      q.cls = controlClass control ∧ s.lookup dst (controlHops control) = .output q.dest :=
    absurd e ((redirect_laws s reason).2 q)
  unfold State.linkTarget
  split
  · exact ⟨(redirect_laws s _).1, go _⟩
  · exact ⟨(redirect_laws s _).1, go _⟩
  · rename_i d hd
    simp only
    split
    · refine ⟨by simp, fun q e => ?_⟩
      cases e
      exact ⟨rfl, hd⟩
    · exact ⟨(redirect_laws s _).1, go _⟩

theorem linkRecord_laws (s : State) (x : LinkId) (hdr : List Byte)
    (hlen : 1 ≤ twoBytes (hdr.getD 4 0) (hdr.getD 5 0) ∧ twoBytes (hdr.getD 4 0) (hdr.getD 5 0) ≤ Config.maxLength) :
    RecordLaws (linkRecord x hdr (s.linkTarget (hdr.getD 0 0) (hdr.getD 2 0))) ∧
      CellsFit (linkRecord x hdr (s.linkTarget (hdr.getD 0 0) (hdr.getD 2 0))) := by
  obtain ⟨h1, h2⟩ := linkTarget_laws s (hdr.getD 0 0) (hdr.getD 2 0)
  refine ⟨⟨hlen, Nat.zero_le _, h1, fun q e => (h2 q e).1, fun y c e => ?_, fun _ => ⟨rfl, x, rfl⟩, Nat.zero_le _⟩,
    fun c => absurd rfl c, ?_⟩
  · exact lookup_link (h2 _ e).2
  · simp [linkRecord, cellsOf, Config.cellBytes]

/-- A claim granted takes cells that are free (R27). -/
theorem free_of_grants (ha : AccountLaws s) (hc : CellsConserved s) (hu : UsageExact s) {p : Party} {n : Nat}
    (hg : s.grants p n = true) : n ≤ s.free.length := by
  rcases Nat.eq_zero_or_pos n with rfl | hn
  · exact Nat.zero_le _
  · exact ((ha.grants_iff p hn).mp hg).trans (ha.headroom_le_free hc hu p)

theorem postRecord_laws {k : PortId} {h : PostHeader} {q : QueueId} {n : Nat} (hj : s.judgePost k h = .taken q n)
    (hfree : n ≤ s.free.length) : RecordLaws (s.postRecord k h q n) ∧ CellsFit (s.postRecord k h q n) := by
  obtain ⟨-, h1, h2, h3, h4, -, rfl, -⟩ := judgePost_taken hj
  refine ⟨⟨⟨h1, h2⟩, Nat.zero_le _, by simp [State.postRecord], fun q' e => ?_, fun x c e => ?_, fun e => ?_, Nat.zero_le _⟩,
    fun c => absurd rfl c, ?_⟩
  · cases e; exact h3
  · cases e; exact lookup_link h4
  · cases e
  · simp [State.postRecord, hfree]

/-- Storing a byte of an assembling record short of its length (R8). -/
theorem RecordLaws.store {r : Record} (h : RecordLaws r ∧ CellsFit r) (hst : r.state = .assembling)
    (hlt : r.filled < r.length) (hx : ∀ x, r.origin = .link x → r.filled % Config.cellBytes ≠ 0) :
    RecordLaws { r with filled := r.filled + 1 } ∧ CellsFit { r with filled := r.filled + 1 } := by
  obtain ⟨⟨h1, h2, h3, h4, h5, h6, h7⟩, g1, g2⟩ := h
  refine ⟨⟨h1, hlt, h3, h4, h5, h6, h7⟩, fun c => absurd hst c, g2.trans ?_⟩
  cases ho : r.origin with
  | host k => rfl
  | link x => simp only [cellsOf_succ, if_neg (hx x ho)]

/-- Storing the byte that opens a cell, with the cell taken (R32). -/
theorem RecordLaws.take {r : Record} (h : RecordLaws r ∧ CellsFit r) (hst : r.state = .assembling) {x : LinkId}
    (ho : r.origin = .link x) (hlt : r.filled < r.length) (hopen : r.filled % Config.cellBytes = 0) (c : CellId) :
    RecordLaws { r with filled := r.filled + 1, cells := r.cells ++ [c] } ∧
      CellsFit { r with filled := r.filled + 1, cells := r.cells ++ [c] } := by
  obtain ⟨⟨h1, h2, h3, h4, h5, h6, h7⟩, g1, g2⟩ := h
  refine ⟨⟨h1, hlt, h3, h4, h5, h6, h7⟩, fun c => absurd hst c, ?_⟩
  simp only [ho] at g2
  simp only [ho, List.length_append, List.length_singleton, g2, cellsOf_succ, if_pos hopen]

/-- The cell taken is where the byte that opens it goes (R8). -/
theorem payloadAddr_take {r : Record} (hcells : r.cells.length = cellsOf r.filled) (hopen : r.filled % Config.cellBytes = 0)
    (c : CellId) : Record.payloadAddr { r with cells := r.cells ++ [c] } r.filled ≠ none := by
  simp only [Record.payloadAddr, ne_eq, Option.map_eq_none_iff, List.getElem?_eq_none_iff, List.length_append,
    List.length_singleton, hcells, cellsOf, Config.cellBytes] at hopen ⊢
  omega

theorem Move.recordsOk {G : Prop} {P : Option Party} (g : G) (hm : Move G P s t) (h : RecordsOk s) (hf : (filesOf s).Ok)
    (hl : ∀ x, CtrlLegal (s.link x).ctrl) (hfree : ∀ p n, s.grants p n = true → n ≤ s.free.length) : RecordsOk t := by
  have links (x : LinkId) : (s.link x).ctrl.resendLimit ≤ 7 := (hl x).2.2.2.2
  cases hm with
  | marks | ports | link | raiseMgr | reserve | returnAll | items | accounts | depth | manager | closeEvents =>
    exact h.congr rfl
  | discard n =>
    intro m r hm
    rw [State.discardOne_record] at hm
    split at hm
    · cases hm
    · exact h m r hm
  | store n r b record short open' =>
    rcases s.storePayload_cases n b with e | ⟨r', a, hr', -, e⟩ <;> rw [e]
    · exact h
    · rw [record] at hr'
      cases hr'
      exact RecordsOk.setRecord (s := s.setMem _) h (RecordLaws.store (h n r record) (open' g).1 short (open' g).2)
  | take x n r c rest b reserved record short opens slot =>
    obtain ⟨r', hr', ho, hst⟩ := hf.slot_record (slot g)
    rw [record] at hr'
    cases hr'
    have hcells : r.cells.length = cellsOf r.filled := by
      have := (h n r record).2.2
      simpa only [ho] using this
    have hrec : (s.takeOne x n r c rest).record n = some { r with cells := r.cells ++ [c] } := by
      simp [State.takeOne]
    rcases (s.takeOne x n r c rest).storePayload_cases n b with e | ⟨r', a, hr', ha, e⟩
    · exfalso
      unfold State.storePayload at e
      rw [hrec] at e
      simp only at e
      split at e
      · exact payloadAddr_take hcells opens c ‹_›
      · have := congrArg (State.record · n) e
        simp only [State.setRecord_record, hrec, if_pos] at this
        have := congrArg (Option.map Record.filled) this
        simp at this
    · rw [hrec] at hr'
      cases hr'
      rw [e]
      intro m r' hm
      rw [State.setRecord_record] at hm
      split at hm
      · cases hm; exact RecordLaws.take (h n r record) hst ho short opens c
      · rename_i hne
        refine h m r' ?_
        have : (s.takeOne x n r c rest).record m = some r' := hm
        simpa [State.takeOne, hne] using this
  | commit n r record full slot target =>
    rw [committed_rest]
    obtain ⟨⟨h1, h2, h3, h4, h5, h6, h7⟩, g1, g2⟩ := h n r record
    refine RecordsOk.congr (s := s.setRecord n (some { r with state := .queued })) (h.setRecord ?_) rfl
    exact ⟨⟨h1, h2, h3, h4, h5, fun c => absurd c (target g), h7⟩, fun _ => full, g2⟩
  | choose x n active free abm head =>
    obtain ⟨c, hc⟩ := head
    obtain ⟨r, hr, -, hst⟩ := hf.record_of_mem (u := .queue ⟨.link x, c⟩) (List.mem_of_mem_head? hc)
    exact (h.setRecState hr hst .sending).congr rfl
  | lend k n q free head role =>
    obtain ⟨r, hr, -, hst⟩ := hf.record_of_mem (List.mem_of_mem_head? head)
    exact (h.setRecState hr hst .loaned).congr rfl
  | clearLoan k =>
    rcases s.clearLoan_cases k with ⟨-, e⟩ | ⟨l, hl, e⟩ <;> rw [e]
    · exact h
    · obtain ⟨r, hr, hst⟩ := hf.loan_record hl
      exact (h.setRecState hr (by rw [hst]; simp) .queued).congr rfl
  | requeue x sd r resends due sending record count =>
    obtain ⟨r', hr', hst⟩ := hf.sends_record (sends_eq_some.mpr ⟨sd, sending, rfl⟩)
    rw [record] at hr'
    cases hr'
    unfold requeued
    refine RecordsOk.congr (h.setRecord (RecordLaws.restate (h _ r record) (by rw [hst]; simp) .queued ?_)) rfl
    have h1 := (h _ r record).1.resends
    have h2 := links x
    omega
  | undeliver x sd r sending record room =>
    obtain ⟨r', hr', hst⟩ := hf.sends_record (sends_eq_some.mpr ⟨sd, sending, rfl⟩)
    rw [record] at hr'
    cases hr'
    obtain ⟨⟨h1, h2, h3, h4, h5, h6, h7⟩, g1, g2⟩ := h _ r record
    rw [undelivered_rest]
    refine RecordsOk.congr (s := s.setRecord sd.recId
      (some { r with target := .uq, reason := some .resends, state := .queued })) (h.setRecord ?_) rfl
    exact ⟨⟨h1, h2, by simp, fun q e => (by cases e), fun y c e => (by cases e), fun e => (by cases e), h7⟩,
      fun _ => g1 (by rw [hst]; simp), g2⟩
  | post k hd q n m record judged slot party =>
    obtain ⟨-, -, -, -, -, -, -, hgr⟩ := judgePost_taken judged
    exact RecordsOk.congr (s := s.setRecord m (some (s.postRecord k hd q n)))
      (h.setRecord (postRecord_laws judged (hfree _ _ hgr))) rfl
  | frame x hdr n record length slot party =>
    rw [framed_rest]
    exact RecordsOk.congr (s := s.setRecord n (some (linkRecord x hdr _))) (h.setRecord (linkRecord_laws s x hdr length)) rfl
  | restart k tx =>
    intro n r hn
    have : (s.restartAll k).record n = none := vget_replicate _ _
    rw [this] at hn
    cases hn
  | reset t ht =>
    cases ht
    intro n r hn
    have : State.reset.record n = none := vget_replicate _ _
    exact absurd (this.symm.trans hn) (by simp)

end

end Sys2Proof.Safety
end

section
/-! SUPPORT. Every move keeps the usages the cells they stand for (R23). -/

namespace Sys2Proof.Safety

open Sys2Proof.Machine

section
variable {s t : State}

/-- What a charge reads of a record: its origin and its cells. -/
def billOf (s : State) (n : RecId) : Option (Party × List CellId) := (s.record n).map fun r => (r.origin, r.cells)

/-- The cells a bill charges to a party. -/
def billed (p : Party) : Option (Party × List CellId) → Nat
  | none => 0
  | some (q, cs) => if q = p then cs.length else 0

theorem cellsCharged_eq (s : State) (p : Party) (n : RecId) : cellsCharged s p n = billed p (billOf s n) := by
  unfold cellsCharged billOf
  cases s.record n <;> rfl

theorem UsageExact.congr (h : UsageExact s) (hu : t.usage = s.usage) (hb : ∀ n, billOf t n = billOf s n)
    (hr : ∀ x, (t.link x).reserved = (s.link x).reserved) : UsageExact t := by
  intro p
  have e : reservation t p = reservation s p := by
    cases p with
    | host k => rfl
    | link x => exact congrArg List.length (hr x)
  have hc : cellsCharged t p = cellsCharged s p := funext fun n => by rw [cellsCharged_eq, cellsCharged_eq, hb]
  rw [e, hc, State.used, hu]
  exact h p

/-- One bill changed, and the usages and reservations with it. -/
theorem UsageExact.of_bill (h : UsageExact s) (n : RecId) (hb : ∀ m, m ≠ n → billOf t m = billOf s m)
    (hu : ∀ p, t.used p + billed p (billOf s n) + reservation s p =
      s.used p + billed p (billOf t n) + reservation t p) : UsageExact t := by
  intro p
  have hs := sum_map_add_of_agree (f := cellsCharged t p) (g := cellsCharged s p) (n := n)
    fun m hm => by rw [cellsCharged_eq, cellsCharged_eq, hb m hm]
  rw [cellsCharged_eq s p n, cellsCharged_eq t p n] at hs
  have h1 := h p
  have h2 := hu p
  omega

theorem UsageExact.of_empty (hu : ∀ p, t.used p = 0) (hr : ∀ n, t.record n = none) (hl : ∀ x, (t.link x).reserved = []) :
    UsageExact t := by
  intro p
  have hc : cellsCharged t p = fun _ => 0 := funext fun n => by simp [cellsCharged, hr]
  have e : reservation t p = 0 := by
    cases p with
    | host k => rfl
    | link x => exact congrArg List.length (hl x)
  rw [hu, hc, e]
  simp

theorem billOf_setRecord {n : RecId} {r r' : Record} (hr : s.record n = some r) (h : r'.origin = r.origin)
    (hc : r'.cells = r.cells) (m : RecId) : billOf (s.setRecord n (some r')) m = billOf s m := by
  unfold billOf
  rw [State.setRecord_record]
  split
  · rename_i e; subst e; simp [hr, h, hc]
  · rfl

theorem billOf_setRecState (s : State) (n : RecId) (st : RecState) (m : RecId) :
    billOf (s.setRecState n st) m = billOf s m := by
  rw [State.setRecState_spec]
  cases hr : s.record n with
  | none =>
    unfold billOf
    rw [Option.map_none, State.setRecord_record]
    split
    · rename_i e; subst e; rw [hr]
    · rfl
  | some r => exact billOf_setRecord hr (by rfl) (by rfl) m

/-- A place that reads the same at link `x` and at every other. -/
theorem reservation_setLink {x : LinkId} {l : Link} (p : Party) :
    reservation (s.setLink x l) p = if p = .link x then l.reserved.length else reservation s p := by
  cases p with
  | host k => rfl
  | link y =>
    simp only [reservation, State.setLink_link, Party.link.injEq, eq_comm (a := x)]
    split <;> rfl

theorem UsageExact.storePayload (h : UsageExact s) (n : RecId) (b : Byte) : UsageExact (s.storePayload n b) := by
  rcases s.storePayload_cases n b with e | ⟨r, a, hr, -, e⟩ <;> rw [e]
  · exact h
  · exact h.congr rfl (billOf_setRecord (s := s.setMem _) hr (by rfl) (by rfl)) fun _ => rfl

theorem UsageExact.discardOne (h : UsageExact s) (n : RecId) : UsageExact (s.discardOne n) := by
  cases hr : s.record n with
  | none => rwa [State.discardOne_none hr]
  | some r =>
    have hrec (m : RecId) (hm : m ≠ n) : billOf (s.discardOne n) m = billOf s m := by
      unfold billOf
      rw [State.discardOne_record, if_neg (Ne.symm hm)]
    refine h.of_bill n hrec fun p => ?_
    have e1 : billOf s n = some (r.origin, r.cells) := by simp [billOf, hr]
    have e2 : billOf (s.discardOne n) n = none := by simp [billOf, State.discardOne_record]
    have e3 : reservation (s.discardOne n) p = reservation s p := by
      cases p with
      | host k => rfl
      | link x => simp [reservation, discardOne_link s n x (by simp [hr]), dropSendingOf_eq]
    have hle : r.origin = p → r.cells.length ≤ s.used p := by
      intro e
      have hs := sum_map_add_of_agree (f := cellsCharged (s.discardOne n) p) (g := cellsCharged s p) (n := n)
        fun m hm => by rw [cellsCharged_eq, cellsCharged_eq, hrec m hm]
      rw [cellsCharged_eq s p n, cellsCharged_eq _ p n, e1, e2] at hs
      simp only [billed, e, if_true, Nat.add_zero] at hs
      have := h p
      omega
    rw [e1, e2, e3, discardOne_used hr]
    simp only [billed]
    split
    · rename_i e
      have := hle e
      omega
    · rfl

theorem Move.usageExact {G : Prop} {P : Option Party} (g : G) (hm : Move G P s t) (h : UsageExact s) (hf : (filesOf s).Ok)
    (hfree : ∀ p n, s.grants p n = true → n ≤ s.free.length) : UsageExact t := by
  cases hm with
  | marks | ports | raiseMgr | items | accounts | depth | manager | closeEvents =>
    exact h.congr rfl (fun _ => rfl) fun _ => rfl
  | link x l reserved => exact h.congr rfl (fun _ => rfl) (setLink_reserved reserved)
  | reserve x c rest free can =>
    refine h.of_bill 0 (fun _ _ => rfl) fun p => ?_
    have e1 : (reservedOne s x c rest).used p = if .link x = p then s.used (.link x) + 1 else s.used p :=
      State.setUsed_used _ _ _ p
    have e2 : reservation (reservedOne s x c rest) p =
        if p = .link x then ((s.link x).reserved ++ [c]).length else reservation s p :=
      reservation_setLink (s := s.setFree rest) p
    have e3 : billOf (reservedOne s x c rest) 0 = billOf s 0 := rfl
    rw [e1, e2, e3]
    by_cases e : p = .link x
    · subst e
      simp only [if_true, reservation, List.length_append, List.length_singleton]
      omega
    · rw [if_neg (Ne.symm e), if_neg e]
  | returnAll x =>
    refine h.of_bill 0 (fun _ _ => rfl) fun p => ?_
    have e1 : (s.returnAll x).used p =
        if .link x = p then s.used (.link x) - (s.link x).reserved.length else s.used p :=
      State.setUsed_used _ _ _ p
    have e2 : reservation (s.returnAll x) p = if p = .link x then 0 else reservation s p :=
      reservation_setLink (s := (s.setFree _).setUsed _ _) p
    have e3 : billOf (s.returnAll x) 0 = billOf s 0 := rfl
    rw [e1, e2, e3]
    by_cases e : p = .link x
    · subst e
      have := h (.link x)
      simp only [if_true, reservation] at this ⊢
      omega
    · rw [if_neg (Ne.symm e), if_neg e]
  | discard n place => exact h.discardOne n
  | store n r b => exact h.storePayload n b
  | take x n r c rest b reserved record short opens slot =>
    obtain ⟨r', hr', ho, -⟩ := hf.slot_record (slot g)
    rw [record] at hr'
    cases hr'
    refine UsageExact.storePayload (h.of_bill n (fun m hm => ?_) fun p => ?_) n b
    · simp [billOf, State.takeOne, Ne.symm hm]
    · have e1 : billOf s n = some (.link x, r.cells) := by simp [billOf, record, ho]
      have e2 : billOf (s.takeOne x n r c rest) n = some (.link x, r.cells ++ [c]) := by
        simp [billOf, State.takeOne, ho]
      have e3 : reservation (s.takeOne x n r c rest) p = if p = .link x then rest.length else reservation s p :=
        reservation_setLink p
      rw [e1, e2, e3]
      have e4 : (s.takeOne x n r c rest).used p = s.used p := rfl
      simp only [billed, e4]
      by_cases e : p = .link x
      · subst e
        have e5 : reservation s (.link x) = rest.length + 1 := by simp [reservation, reserved]
        simp only [if_true, e5, List.length_append, List.length_singleton]
        omega
      · rw [if_neg (Ne.symm e), if_neg (Ne.symm e), if_neg e]
  | commit n r record =>
    rw [committed_rest]
    exact h.congr rfl (billOf_setRecord record (by rfl) (by rfl)) fun _ => rfl
  | choose x n =>
    refine h.congr ?_ (billOf_setRecState s n .sending) fun y => ?_
    · rw [State.setRecState_spec]; rfl
    · rw [State.setRecState_spec]; exact setLink_reserved (by rfl) y
  | lend k n q =>
    refine h.congr ?_ (billOf_setRecState s n .loaned) fun x => ?_
    · unfold State.lend; rw [State.setRecState_spec]; rfl
    · unfold State.lend; rw [State.setRecState_spec]; rfl
  | clearLoan k =>
    rcases s.clearLoan_cases k with ⟨-, e⟩ | ⟨l, -, e⟩ <;> rw [e]
    · exact h
    · refine h.congr ?_ (billOf_setRecState s l.recId .queued) fun x => ?_
      · rw [State.setRecState_spec]; rfl
      · rw [State.setRecState_spec]; rfl
  | requeue x sd r resends due sending record =>
    unfold requeued
    exact h.congr rfl (billOf_setRecord record (by rfl) (by rfl)) (setLink_reserved (by rfl))
  | undeliver x sd r sending record =>
    rw [undelivered_rest]
    exact h.congr rfl (billOf_setRecord record (by rfl) (by rfl)) (setLink_reserved (by rfl))
  | post k hd q n m record judged =>
    obtain ⟨-, -, -, -, -, -, -, hgr⟩ := judgePost_taken judged
    refine h.of_bill m (fun i hi => ?_) fun p => ?_
    · exact congrArg (Option.map fun r : Record => (r.origin, r.cells))
        ((State.setRecord_record s m (some (s.postRecord k hd q n)) i).trans (if_neg (Ne.symm hi)))
    · have e1 : billOf s m = none := by simp [billOf, record]
      have e2 : billOf (posted s k hd q n m) m = some (.host k, s.free.take n) := by
        simp [billOf, posted, State.postRecord]
      have e3 : (posted s k hd q n m).used p = if .host k = p then s.used (.host k) + n else s.used p :=
        State.setUsed_used _ _ _ p
      have e4 : reservation (posted s k hd q n m) p = reservation s p := by cases p <;> rfl
      rw [e1, e2, e3, e4]
      simp only [billed, List.length_take, Nat.min_eq_left (hfree _ _ hgr)]
      split
      · rename_i e; subst e; omega
      · rfl
  | frame x hdr n record =>
    refine h.of_bill n (fun i hi => ?_) fun p => ?_
    · rw [framed_rest]
      exact congrArg (Option.map fun r : Record => (r.origin, r.cells)) ((State.setRecord_record s n _ i).trans (if_neg (Ne.symm hi)))
    · have e1 : billOf s n = none := by simp [billOf, record]
      have e2 : billOf (framed s x hdr n) n = some (.link x, []) := by
        rw [framed_rest]
        exact congrArg (Option.map fun r : Record => (r.origin, r.cells)) ((State.setRecord_record s n _ n).trans (if_pos rfl))
      have e3 : (framed s x hdr n).used p = s.used p := by rw [framed_rest]; rfl
      have e4 : reservation (framed s x hdr n) p = reservation s p := by rw [framed_rest]; cases p <;> rfl
      rw [e1, e2, e3, e4]
      simp [billed]
  | restart k tx =>
    exact .of_empty (fun p => vget_replicate _ _) (fun n => vget_replicate _ _)
      fun x => congrArg Link.reserved (vget_map Link.restart _ x)
  | reset t ht =>
    cases ht
    exact .of_empty (fun p => vget_replicate _ _) (fun n => vget_replicate _ _)
      fun x => congrArg Link.reserved (vget_replicate Link.reset x)

end

end Sys2Proof.Safety
end

section
/-! SUPPORT. What every move keeps of the slots' agreement and of an ABM due; and so the exchange as a whole (O59). -/

namespace Sys2Proof.Safety

open Sys2Proof.Machine

section
variable {s t : State}

/-! ### Slots and transactions -/

/-- What the agreement of party `p` reads, before and after. -/
structure SameAgreement (s t : State) (p : Party) : Prop where
  slot : t.slot p = s.slot p
  phase : ∀ k, p = .host k → ((t.port k).phase = .filling ↔ (s.port k).phase = .filling)
  header : ∀ x, p = .link x → (t.link x).headerDone = (s.link x).headerDone

theorem SameAgreement.agrees {p : Party} (h : SameAgreement s t p) (hs : Agrees s p) : Agrees t p := by
  cases p with
  | host k => simpa only [Agrees, h.slot, h.phase k rfl] using hs
  | link x => simpa only [Agrees, h.slot, h.header x rfl] using hs

theorem SameAgreement.of_eq {p : Party} (h1 : t.slots = s.slots) (h2 : ∀ k, (t.port k).phase = (s.port k).phase)
    (h3 : ∀ x, (t.link x).headerDone = (s.link x).headerDone) : SameAgreement s t p :=
  ⟨by rw [State.slot, h1]; rfl, fun k _ => by rw [h2], fun x _ => h3 x⟩

/-- Only the slot of another party was written. -/
theorem SameAgreement.of_slot {p q : Party} {o : Option RecId} (hpq : p ≠ q) (h1 : t.slots = vset s.slots q.num o)
    (h2 : t.ports = s.ports) (h3 : t.links = s.links) : SameAgreement s t p := by
  refine ⟨?_, fun k _ => by rw [State.port, h2]; rfl, fun x _ => by rw [State.link, h3]; rfl⟩
  rw [State.slot, h1, vget_vset, if_neg fun e => hpq (Party.num_inj.mp e).symm]
  rfl

theorem setLink_headerDone {x : LinkId} {l : Link} (h : l.headerDone = (s.link x).headerDone) (y : LinkId) :
    ((s.setLink x l).link y).headerDone = (s.link y).headerDone := by
  rw [State.setLink_link]
  split
  · rename_i e; rw [h, e]
  · rfl

theorem discardOne_phase (s : State) (n : RecId) (k : PortId) :
    ((s.discardOne n).port k).phase = (s.port k).phase := by
  cases hr : s.record n with
  | none => rw [State.discardOne_none hr]
  | some r =>
    rw [discardOne_port s n k (by simp [hr])]
    unfold Port.dropLoanOf
    split <;> rfl

theorem discardOne_headerDone (s : State) (n : RecId) (x : LinkId) :
    ((s.discardOne n).link x).headerDone = (s.link x).headerDone := by
  cases hr : s.record n with
  | none => rw [State.discardOne_none hr]
  | some r =>
    rw [discardOne_link s n x (by simp [hr]), dropSendingOf_eq]
    rfl

/-- A restart leaves no POST in FILLING (R98). -/
theorem restart_phase (h : ∀ k, PortLaws (s.port k)) {k : PortId} (ht : (s.port k).tx = .running .restart) (j : PortId) :
    ((s.restartAll k).port j).phase ≠ .filling := by
  have e : (s.restartAll k).port j = if k = j then (s.port k).restartOwn else (s.port j).restartOther := by
    simp [State.restartAll, State.port, vget_map]
  rw [e]
  split
  · exact (h k).not_filling (by rw [ht]; simp)
  · unfold Port.restartOther
    split
    · simp [Port.restartOwn, Port.endTx]
    · rename_i ho
      exact (h j).not_filling fun c => ho (by rw [c]; rfl)

theorem Move.agrees {G : Prop} {P : Option Party} (g : G) (hm : Move G P s t) (hp : ∀ k, PortLaws (s.port k))
    (h : ∀ p, P ≠ some p → Agrees s p) : ∀ p, P ≠ some p → Agrees t p := by
  intro p hP
  have same {u : State} (e : SameAgreement s u p) : Agrees u p := e.agrees (h p hP)
  cases hm with
  | marks | items | accounts | depth | manager => exact same (.of_eq rfl (fun _ => rfl) fun x => rfl)
  | reserve x => exact same (.of_eq rfl (fun _ => rfl) (setLink_headerDone (s := s.setFree _) (by rfl)))
  | ports ps loan phase sound =>
    refine same ⟨rfl, fun k e => ?_, fun _ _ => rfl⟩
    subst e
    exact (phase k).resolve_left hP (hp k)
  | link x l reserved sending laws ctrl header abm =>
    refine same ⟨rfl, fun _ _ => Iff.rfl, fun y e => ?_⟩
    subst e
    rw [State.setLink_link]
    split
    · rename_i e; subst e; exact header.resolve_left hP
    · rfl
  | raiseMgr e => exact same (.of_eq rfl (fun k => by rw [State.raiseMgr_port]; rfl) fun _ => rfl)
  | returnAll x => exact same (.of_eq rfl (fun _ => rfl) (setLink_headerDone (by rfl)))
  | discard n place =>
    refine same ⟨?_, fun k _ => by rw [discardOne_phase], fun x _ => discardOne_headerDone s n x⟩
    cases hr : s.record n with
    | none => rw [State.discardOne_none hr]
    | some r =>
      rw [discardOne_slot hr, if_neg]
      rintro ⟨hst, rfl⟩
      exact hP (place g r hr hst)
  | store n r b =>
    rw [storePayload_rest]
    exact same (.of_eq rfl (fun _ => rfl) fun _ => rfl)
  | take x n r c rest b =>
    rw [storePayload_rest]
    exact same (.of_eq rfl (fun _ => rfl) (setLink_headerDone (by rfl)))
  | commit n r record full slot =>
    rw [committed_rest]
    refine same (.of_slot (q := r.origin) (o := none) ?_ rfl rfl rfl)
    rintro rfl
    exact hP (slot g).2
  | choose x n =>
    rw [State.setRecState_spec]
    exact same (.of_eq rfl (fun _ => rfl) (setLink_headerDone (s := s.setRecord n _) (by rfl)))
  | lend k n q =>
    unfold State.lend
    rw [State.setRecState_spec]
    refine same (.of_eq rfl (fun j => ?_) fun _ => rfl)
    rw [State.setPort_port]
    split
    · rename_i e; rw [← e]
    · rfl
  | clearLoan k =>
    rcases s.clearLoan_cases k with ⟨-, e⟩ | ⟨l, -, e⟩ <;> rw [e]
    · exact h p hP
    · rw [State.setRecState_spec]
      refine same (.of_eq rfl (fun j => ?_) fun _ => rfl)
      rw [State.setPort_port]
      split
      · rename_i e; rw [← e]
      · rfl
  | requeue x sd r =>
    unfold requeued
    exact same (.of_eq rfl (fun _ => rfl) (setLink_headerDone (s := s.setRecord _ _) (by rfl)))
  | undeliver x sd r =>
    rw [undelivered_rest]
    exact same (.of_eq rfl (fun _ => rfl) (setLink_headerDone (by rfl)))
  | post k hd q n m record judged slot party =>
    exact same (.of_slot (q := .host k) (o := some m) (fun e => hP (e ▸ party)) rfl rfl rfl)
  | frame x hdr n record length slot party =>
    rw [framed_rest]
    exact same (.of_slot (q := .link x) (o := some n) (fun e => hP (e ▸ party)) rfl rfl rfl)
  | closeEvents k q b loan phase sound =>
    refine same ⟨rfl, fun j _ => ?_, fun _ _ => rfl⟩
    refine (iff_of_eq (congrArg (fun q : Port => q.phase = .filling) (State.setPort_port s k q j))).trans ?_
    split
    · rename_i e; subst e; exact phase (hp _)
    · exact Iff.rfl
  | restart k tx =>
    cases p with
    | host j => exact .of_idle (vget_replicate _ _) (restart_phase hp tx j)
    | link x =>
      exact .of_closed (vget_replicate _ _) (congrArg Link.isOpen (vget_map Link.restart _ x))
  | reset t ht =>
    cases ht
    cases p with
    | host j =>
      refine .of_idle (vget_replicate _ _) ?_
      rcases port_cases j with rfl | rfl | rfl | rfl <;> exact fun c => by cases c
    | link x => exact .of_closed (vget_replicate _ _) (congrArg Link.isOpen (vget_replicate Link.reset x))

/-! ### An ABM due -/

theorem setLink_abm (h : ∀ x, (s.link x).abmDue = true → (s.link x).sending = none) {x : LinkId} {l : Link}
    (hl : l.abmDue = true → l.sending = none) (y : LinkId) :
    ((s.setLink x l).link y).abmDue = true → ((s.setLink x l).link y).sending = none := by
  rw [State.setLink_link]
  split
  · exact hl
  · exact h y

/-- Every move keeps an ABM from being due while a record is being sent (R171). -/
theorem Move.abmOk {G : Prop} {P : Option Party} (g : G) (hm : Move G P s t)
    (h : ∀ x, (s.link x).abmDue = true → (s.link x).sending = none) :
    ∀ x, (t.link x).abmDue = true → (t.link x).sending = none := by
  cases hm with
  | marks | ports | raiseMgr | items | accounts | depth | manager | closeEvents | post => exact h
  | link x l reserved sending laws ctrl header abm => exact setLink_abm h (abm g (h x))
  | reserve x => exact setLink_abm h (h x)
  | returnAll x => exact setLink_abm h (h x)
  | discard n =>
    intro x
    cases hr : s.record n with
    | none => rw [State.discardOne_none hr]; exact h x
    | some r =>
      rw [discardOne_link s n x (by simp [hr]), dropSendingOf_eq]
      intro hd
      simp only
      split
      · rfl
      · exact h x hd
  | store n r b => rw [storePayload_rest]; exact h
  | take x n r c rest b => rw [storePayload_rest]; exact setLink_abm h (h x)
  | commit n r => rw [committed_rest]; exact h
  | choose x n active free abm =>
    rw [State.setRecState_spec]
    exact setLink_abm (s := s.setRecord n _) h fun c => by rw [show (s.link x).abmDue = true from c] at abm; cases abm
  | lend k n q => unfold State.lend; rw [State.setRecState_spec]; exact h
  | clearLoan k =>
    rcases s.clearLoan_cases k with ⟨-, e⟩ | ⟨l, -, e⟩ <;> rw [e]
    · exact h
    · rw [State.setRecState_spec]; exact h
  | requeue x sd r resends due => unfold requeued; exact setLink_abm (s := s.setRecord _ _) h fun _ => rfl
  | undeliver x sd r => rw [undelivered_rest]; exact setLink_abm h fun _ => rfl
  | frame x hdr n => rw [framed_rest]; exact h
  | restart k tx =>
    intro x _
    exact congrArg Link.sending (vget_map Link.restart s.links x)
  | reset t ht =>
    cases ht
    intro x _
    exact congrArg Link.sending (vget_replicate Link.reset x)

end

end Sys2Proof.Safety
end

section
/-! SUPPORT. The exchange as a whole through a step (O59), that a record is always free (O60), and the power-on state (O58). -/

namespace Sys2Proof.Safety

open Sys2Proof.Machine

/-- The exchange within a step that handles party `P`: sound, but for that party's agreement. -/
structure Within (P : Option Party) (s : State) : Prop where
  cells : CellsConserved s
  charges : UsageExact s
  accounts : AccountLaws s
  files : (filesOf s).Ok
  records : RecordsOk s
  items : ItemsLegal s
  ports : PortsSound s
  links : ∀ x, LinkLaws (s.link x)
  abm : ∀ x, (s.link x).abmDue = true → (s.link x).sending = none
  memory : s.mem.wf = true
  agrees : ∀ p, P ≠ some p → Agrees s p

theorem Sound.within {s : State} (h : Sound s) (P : Option Party) : Within P s where
  cells := h.store.cells
  charges := h.store.charges
  accounts := h.store.accounts
  files := files_ok_iff.mpr ⟨h.store.references, h.store.placed, h.store.reservations, h.store.occupancy⟩
  records := h.store.records
  items := h.items
  ports := h.ports
  links := h.links
  abm := h.abm
  memory := h.memory
  agrees p _ := slotsOwned_iff.mp h.store.slots p

theorem Within.sound {P : Option Party} {s : State} (h : Within P s) (ha : ∀ p, P = some p → Agrees s p) : Sound s := by
  obtain ⟨h1, h2, h3, h4⟩ := files_ok_iff.mp h.files
  refine ⟨⟨h.cells, h.charges, h.accounts, h1, h2, slotsOwned_iff.mpr fun p => ?_, h.records, h3, h4, h.items.depths⟩,
    h.items, h.ports, h.links, h.abm, h.memory⟩
  by_cases hp : P = some p
  · exact ha p hp
  · exact h.agrees p hp

/-- Every move keeps the exchange sound within its step. -/
theorem Move.within {G : Prop} {P : Option Party} (g : G) {s t : State} (hm : Move G P s t) (h : Within P s) :
    Within P t where
  cells := hm.cellsConserved h.cells
  charges := hm.usageExact g h.charges h.files fun _ _ => free_of_grants h.accounts h.cells h.charges
  accounts := hm.accountLaws h.accounts
  files := hm.filesOk g h.files h.ports.role.uqLoan
  records := hm.recordsOk g h.records h.files (fun x => (h.links x).ctrl)
    fun _ _ => free_of_grants h.accounts h.cells h.charges
  items := hm.itemsLegal h.items
  ports := hm.portsSound h.ports
  links := hm.linkLaws h.links
  abm := hm.abmOk g h.abm
  memory := hm.memWf h.memory
  agrees := hm.agrees g h.ports.ports h.agrees

theorem Does.sound {s t : State} (h : Does s t) (hs : Sound s) : Sound t := by
  obtain ⟨P, hm, ha⟩ := h
  exact (Moves.keep (Move.within hs) hm (hs.within P)).sound (ha hs)

/-- A sound exchange is sound whatever commands wait. -/
theorem Sound.setPending {s : State} (h : Sound s) (rest : List Instr) : Sound { s with pending := rest } :=
  (Does.quiet (moves_marks s s.ties s.owed s.ahead rest)).sound h

/-- Settles O59: every command is a chain of moves that keep the exchange sound within the step, and at its end the party
that the command handles agrees with its slot again. -/
theorem soundKept : Obligations.SoundKept := by
  intro s t hs h
  rcases step_does h with rfl | ⟨c, rest, -, he⟩
  · exact hs
  · exact (exec_does he).sound (hs.setPending rest)

/-! ### A free record -/

section
variable {s : State}

/-- Every record in use is committed to a class or the UQ, holds a place reserved there, or is a message to be dropped in
the slot of a link (R9, R61). -/
theorem record_place (h : (filesOf s).Ok) (hr : RecordsOk s) {n : RecId} (hn : s.record n ≠ none) :
    (∃ t, t ≠ .drop ∧ n ∈ queueOf s t) ∨ (∃ t, t ≠ .drop ∧ assembling t ((filesOf s).key n) = true) ∨
      ∃ x, s.slot (.link x) = some n := by
  obtain ⟨r, hrec⟩ := Option.ne_none_iff_exists'.mp hn
  have hk := filesOf_key hrec
  by_cases hst : r.state = .assembling
  · by_cases ht : r.target = .drop
    · obtain ⟨-, x, ho⟩ := (hr n r hrec).1.dropped ht
      exact .inr (.inr ⟨x, (h.slots _ n).mpr ⟨.drop, by rw [hk, ho, ht, hst]⟩⟩)
    · exact .inr (.inl ⟨r.target, ht, by rw [hk, hst]; simp [assembling]⟩)
  · by_cases ht : r.target = .drop
    · exact absurd ((hr n r hrec).1.dropped ht).1 hst
    · exact .inl ⟨r.target, ht, (h.queues r.target n).mpr ⟨r.origin, r.state, hk, hst⟩⟩

/-- The thirteen queues. -/
def targets : List Target := .uq :: (List.finRange 12).map fun i => .queue (QueueId.ofNum i)

theorem mem_targets {t : Target} : t ∈ targets ↔ t ≠ .drop := by
  cases t with
  | queue q =>
    simp only [targets, List.mem_cons, List.mem_map, reduceCtorEq, false_or, ne_eq, not_false_eq_true, iff_true]
    exact ⟨q.num, List.mem_finRange _, by simp⟩
  | uq => simp [targets]
  | drop => simp [targets]

/-- The records in use: those of each queue, those that assemble for it, and those in the links' slots. -/
def inUse (s : State) : List RecId :=
  (targets.flatMap fun t => queueOf s t ++ (List.finRange 128).filter fun n => assembling t ((filesOf s).key n)) ++
    ((s.slot (.link 0)).toList ++ (s.slot (.link 1)).toList)

theorem mem_inUse (h : (filesOf s).Ok) (hr : RecordsOk s) {n : RecId} (hn : s.record n ≠ none) : n ∈ inUse s := by
  simp only [inUse, List.mem_append, List.mem_flatMap, List.mem_filter, List.mem_finRange, true_and, Option.mem_toList]
  rcases record_place h hr hn with ⟨t, ht, hm⟩ | ⟨t, ht, hm⟩ | ⟨x, hx⟩
  · exact .inl ⟨t, mem_targets.mpr ht, .inl hm⟩
  · exact .inl ⟨t, mem_targets.mpr ht, .inr hm⟩
  · rcases link_cases x with rfl | rfl
    · exact .inr (.inl hx)
    · exact .inr (.inr hx)

/-- At most 124 records are in use: 114 places of the classes, 8 of the UQ and 2 slots (1.2, R62). -/
theorem length_inUse (h : (filesOf s).Ok) (hd : DepthsLegal s) : (inUse s).length ≤ 124 := by
  have each (t : Target) (ht : t ≠ .drop) :
      (queueOf s t ++ (List.finRange 128).filter fun n => assembling t ((filesOf s).key n)).length ≤ capOf s t := by
    rw [List.length_append]
    have h1 := h.bounded t ht
    rw [h.reserved t ht] at h1
    exact h1
  have hslot (o : Option RecId) : o.toList.length ≤ 1 := by cases o <;> simp
  have h0 := hslot (s.slot (.link 0))
  have h1 := hslot (s.slot (.link 1))
  have hsum : (targets.flatMap fun t => queueOf s t ++ (List.finRange 128).filter fun n =>
      assembling t ((filesOf s).key n)).length ≤ (targets.map (capOf s)).sum := by
    rw [List.length_flatMap]
    exact List.sum_le_sum fun t ht => each t (mem_targets.mp ht)
  have hcap : (targets.map (capOf s)).sum = 8 + sumDepth s := by
    simp only [targets, List.map_cons, List.sum_cons, List.map_map]
    refine congrArg (8 + ·) (congrArg List.sum (List.map_congr_left fun i _ => ?_))
    simp [capOf, State.qclass]
  have hb : sumDepth s ≤ 114 := hd.2
  simp only [inUse, List.length_append]
  omega

/-- In a sound exchange a record is free. -/
theorem Sound.freeRecord (h : Sound s) : s.freeRecord ≠ none := by
  intro hnone
  have hw := h.within none
  have hall (n : RecId) : s.record n ≠ none := by
    have := List.find?_eq_none.mp hnone n (List.mem_finRange n)
    simpa using this
  have hsub : (List.finRange 128) ⊆ inUse s := fun n _ => mem_inUse hw.files hw.records (hall n)
  have h1 := (List.subperm_of_subset (List.nodup_finRange 128) hsub).length_le
  have h2 := length_inUse hw.files hw.items.depths
  simp at h1
  omega

end

end Sys2Proof.Safety
end

section
/-! SUPPORT. Every command goes on where a record is free (O60), and the power-on state (O58). -/

namespace Sys2Proof.Safety

open Sys2Proof.Machine

/-- A command goes on. -/
def Goes (o : Host.Outcome State Fault Refusal) : Prop := ∃ t, o = .next t

theorem goes_next (t : State) : Goes (.next t) := ⟨t, rfl⟩

section
variable {s : State} {k : PortId} {b : Byte} {early : Bool} {x : LinkId}

/-- A command with two outcomes goes on if both do. -/
theorem goes_ite {c : Prop} [Decidable c] {o o' : Host.Outcome State Fault Refusal} (h : c → Goes o) (h' : ¬c → Goes o') :
    Goes (if c then o else o') := by
  split
  · exact h ‹_›
  · exact h' ‹_›

/-- Of the commands of a port, POST alone can need a free record (R100). -/
theorem execPost_goes (hf : s.freeRecord ≠ none) : Goes (execPost k b early s) := by
  by_cases hb : s.byteStep k b = .post
  · rw [execPost_due hb]
    have hu : (s.verdict k ((s.port k).postHeader b)).2.freeRecord ≠ none := by
      rcases s.verdict_cases k ((s.port k).postHeader b) with ⟨-, e⟩ | ⟨q, -, e | e⟩ <;> rw [e] <;> exact hf
    generalize s.verdict k ((s.port k).postHeader b) = v at hu
    cases hv : v.1 with
    | refused st => exact goes_next _
    | full q => exact goes_next _
    | noCells n => exact goes_next _
    | taken q n =>
      simp only [postOutcome]
      split
      · exact absurd ‹_› hu
      · exact goes_next _
  · rw [execPost, if_neg hb]
    exact goes_next _

theorem execFence_goes : Goes (execFence k b early s) := by
  unfold execFence
  refine goes_ite (fun _ => ?_) fun _ => goes_next _
  split
  · exact goes_next _
  · exact goes_ite (fun _ => goes_next _) fun _ => goes_next _

theorem execUnfence_goes : Goes (execUnfence k b early s) := by
  unfold execUnfence
  refine goes_ite (fun _ => ?_) fun _ => goes_next _
  split <;> exact goes_next _

theorem execPurge_goes : Goes (execPurge k b early s) := by
  unfold execPurge
  refine goes_ite (fun _ => ?_) fun _ => goes_next _
  split <;> exact goes_next _

theorem execDrain_goes : Goes (execDrain k b early s) := by
  unfold execDrain
  refine goes_ite (fun _ => ?_) fun _ => goes_next _
  split <;> exact goes_next _

theorem execRestart_goes : Goes (execRestart k early s) := by
  unfold execRestart
  refine goes_ite (fun _ => ?_) fun _ => goes_next _
  simp only
  split <;> exact goes_next _

/-- A command that is due or not, and goes on either way. -/
theorem goes_due {c : Prop} [Decidable c] {t u : State} : Goes (if c then .next t else .next u) :=
  goes_ite (fun _ => goes_next _) fun _ => goes_next _

theorem execInByteCompletion_goes (hf : s.freeRecord ≠ none) : Goes (execInByteCompletion k b early s) := by
  unfold execInByteCompletion
  cases s.byteStep k b with
  | ignored => exact goes_next _
  | plain => exact goes_next _
  | post => exact execPost_goes hf
  | fence => exact execFence_goes
  | unfence => exact execUnfence_goes
  | purge => exact execPurge_goes
  | drain => exact execDrain_goes
  | restart => exact execRestart_goes
  | undefinedCode | nop | payload | fetch | fetchUq | release | events | mask | managerMask | query | claim | resign
  | portReset | readItem | writeItem | routeWrite | portaddrWrite | guaranteeWrite | limitWrite | depthWrite
  | runlimitWrite | posttimeoutWrite | lowmarkWrite | linkEnable | linkDisable => exact goes_due

/-! ### Links -/

theorem headerComplete_goes (hf : s.freeRecord ≠ none) (hdr : List Byte) : Goes (s.headerComplete x hdr) := by
  unfold State.headerComplete
  refine goes_ite (fun _ => goes_next _) fun _ => ?_
  split
  · exact absurd ‹_› hf
  · exact goes_next _

theorem execReceiveHeaderByte_goes (hf : s.freeRecord ≠ none) : Goes (execReceiveHeaderByte x b s) := by
  unfold execReceiveHeaderByte
  cases (s.link x).state with
  | off => exact goes_next _
  | start => exact goes_next _
  | hold => exact goes_next _
  | active => exact goes_ite (fun _ => goes_next _) fun _ =>
      goes_ite (fun _ => headerComplete_goes hf _) fun _ => goes_next _

theorem execHeaderStep_goes (hf : s.freeRecord ≠ none) : Goes (execHeaderStep x b s) := by
  unfold execHeaderStep
  cases (s.link x).state with
  | off => exact goes_next _
  | start => exact goes_next _
  | hold => exact goes_next _
  | active => exact goes_ite (fun _ => headerComplete_goes hf _) fun _ => goes_next _

theorem execReceivePayloadByte_goes : Goes (execReceivePayloadByte x b s) := by
  unfold execReceivePayloadByte
  cases (s.link x).state with
  | off => exact goes_next _
  | start => exact goes_next _
  | hold => exact goes_next _
  | active =>
    refine goes_ite (fun _ => ?_) fun _ => goes_next _
    split <;> exact goes_next _

theorem execReceiveEom_goes : Goes (execReceiveEom x s) := by
  unfold execReceiveEom
  cases (s.link x).state with
  | off => exact goes_next _
  | start => exact goes_next _
  | hold => exact goes_next _
  | active =>
    refine goes_ite (fun _ => goes_next _) fun _ => goes_ite (fun _ => goes_next _) fun _ => ?_
    split <;> exact goes_next _

theorem execReceiveAbm_goes : Goes (execReceiveAbm x s) := by
  unfold execReceiveAbm
  cases (s.link x).state with
  | off => exact goes_next _
  | start => exact goes_next _
  | hold => exact goes_next _
  | active =>
    refine goes_ite (fun _ => goes_next _) fun _ => ?_
    split <;> exact goes_next _

theorem execReceiveFill_goes : Goes (execReceiveFill x s) := by
  unfold execReceiveFill
  cases (s.link x).state with
  | off => exact goes_next _
  | start => exact goes_due
  | hold => exact goes_next _
  | active => exact goes_next _

theorem execReceiveGrant_goes : Goes (execReceiveGrant x s) := by
  unfold execReceiveGrant
  cases (s.link x).state with
  | off => exact goes_next _
  | start => exact goes_next _
  | hold => exact goes_next _
  | active => exact goes_due

theorem execSendFill_goes : Goes (execSendFill x s) := by
  unfold execSendFill
  refine goes_ite (fun _ => ?_) fun _ => goes_next _
  cases (s.link x).state with
  | off => exact goes_next _
  | start => exact goes_next _
  | hold => exact goes_next _
  | active => exact goes_ite (fun _ => goes_next _) fun _ => goes_due

theorem execSendHeaderByte_goes : Goes (execSendHeaderByte x s) := by
  unfold execSendHeaderByte
  split <;> exact goes_next _

theorem execSendPayloadByte_goes : Goes (execSendPayloadByte x s) := by
  unfold execSendPayloadByte
  split
  · exact goes_due
  · exact goes_next _

theorem execEomSent_goes {m : EomMoment} : Goes (execEomSent x m s) := by
  unfold execEomSent
  cases m with
  | begins => simp only; split <;> exact goes_next _
  | completes => simp only; split <;> exact goes_next _

theorem execSettleEnd_goes : Goes (execSettleEnd x s) := by
  unfold execSettleEnd
  exact goes_ite (fun _ => goes_due) fun _ => goes_next _

/-- Every command goes on in a state with a free record (R5). -/
theorem exec_goes (hf : s.freeRecord ≠ none) (c : Instr) : Goes (exec c s) := by
  cases c with
  | powerOnReset => exact goes_next _
  | post k b early => exact execPost_goes hf
  | fence k b early => exact execFence_goes
  | unfence k b early => exact execUnfence_goes
  | purge k b early => exact execPurge_goes
  | drain k b early => exact execDrain_goes
  | restart k early => exact execRestart_goes
  | inByteCompletion k b early => exact execInByteCompletion_goes hf
  | sendFill x => exact execSendFill_goes
  | sendHeaderByte x => exact execSendHeaderByte_goes
  | sendPayloadByte x => exact execSendPayloadByte_goes
  | eomSent x m => exact execEomSent_goes
  | settleEnd x => exact execSettleEnd_goes
  | receiveFill x => exact execReceiveFill_goes
  | receiveGrant x => exact execReceiveGrant_goes
  | receiveHeaderByte x b => exact execReceiveHeaderByte_goes hf
  | headerStep x b => exact execHeaderStep_goes hf
  | receivePayloadByte x b => exact execReceivePayloadByte_goes
  | receiveEom x => exact execReceiveEom_goes
  | receiveAbm x => exact execReceiveAbm_goes
  | selectFall | selectRise | undefinedRequestCode | nop | postPayloadByte | postTimeout | fetch | fetchUq | release | events
  | mask | managerMaskWrite | query | claim | resign | portReset | readItem | writeItem | routeWrite | portaddrWrite
  | guaranteeWrite | limitWrite | depthWrite | runlimitWrite | posttimeoutWrite | lowmarkWrite | linkEnable | linkDisable
  | sendGrant | sendAbm | symbolError | silence | holdEnd => exact goes_due

end

/-- Settles O60: at most 124 records are in use in a sound exchange, so one is free for a POST or a header step, and no
other command can stop. -/
theorem soundStepsGoOn : Obligations.SoundStepsGoOn := by
  intro s hs
  unfold StepSafe step
  split
  · exact ⟨s, rfl⟩
  · exact exec_goes ((hs.setPending _).freeRecord) _

/-! ### Power-on -/

theorem reset_sound : Sound State.reset := by
  have hrec (n : RecId) : State.reset.record n = none := vget_replicate _ _
  have hlink (x : LinkId) : State.reset.link x = Link.reset := vget_replicate _ _
  refine Within.sound (P := none) ⟨?_, ?_, reset_accountLaws, ?_, fun n r hr => ?_, reset_itemsLegal, ?_, fun x => ?_, fun x _ => ?_,
    rfl, fun p _ => ?_⟩ fun p hp => by cases hp
  · rw [cellsConserved_iff]
    intro a
    simp [placesCount, State.reset, State.link, vget_replicate, Link.reset, count_recordCells, cellsAt, State.record]
  · exact .of_empty (fun p => vget_replicate _ _) hrec fun x => by rw [hlink]; rfl
  · exact reset_filesOk
  · rw [hrec] at hr; cases hr
  · refine portsSound_iff.mpr ⟨fun k => ?_, fun _ => rfl⟩
    rcases port_cases k with rfl | rfl | rfl | rfl <;> exact reset_portSound (low := false)
  · rw [hlink]; exact reset_linkLaws
  · rw [hlink]; rfl
  · cases p with
    | host j =>
      refine .of_idle (vget_replicate _ _) ?_
      rcases port_cases j with rfl | rfl | rfl | rfl <;> exact fun c => by cases c
    | link x => exact .of_closed (vget_replicate _ _) (congrArg Link.isOpen (hlink x))

/-- Settles O58: nothing is in use, on loan or reserved after power-on reset, and no link is ACTIVE. -/
theorem resetSound : Obligations.ResetSound := by
  refine ⟨reset_sound, fun x ha => ?_, fun h => absurd rfl h, fun h => absurd rfl h⟩
  have hlink : State.reset.link x = Link.reset := vget_replicate _ _
  rw [hlink] at ha
  cases ha

end Sys2Proof.Safety
end

section
/-! SUPPORT. An event at the accounts to its end (R28, R30, R31, R38, R39): which claims it leaves granted, that it runs until
nothing stands, and what each of its actions keeps. -/

namespace Sys2Proof.Safety

open Sys2Proof.Machine

/-! ### The accounts as an event finds them -/

/-- The laws of the accounts, with as many free cells as the usages leave (R25). -/
structure Even (s : State) : Prop where
  laws : AccountLaws s
  free : s.free.length + sumParties (vget s.usage) = 512

theorem Even.of_exact {s : State} (h : AccountLaws s) (hc : CellsConserved s) (hu : UsageExact s) : Even s :=
  ⟨h, free_length_add_usage hc hu⟩

theorem Sound.even {s : State} (h : Sound s) : Even s := .of_exact h.store.accounts h.store.cells h.store.charges

theorem Even.congr {s t : State} (h : Even s) (hf : t.free = s.free) (hu : t.usage = s.usage)
    (hg : t.guarantee = s.guarantee) (hl : t.limit = s.limit) : Even t :=
  ⟨h.laws.congr hg hl hu, by rw [hf, hu]; exact h.free⟩

/-- A claim granted finds a free cell (R27). -/
theorem Even.free_pos {s : State} (h : Even s) {p : Party} (hg : s.grants p 1 = true) : s.free ≠ [] := by
  have h1 := (h.laws.grants_iff p le_rfl).mp hg
  have h2 := h.laws.headroom_add_usage_le p
  have h3 := h.free
  intro e
  rw [e] at h3
  simp at h3
  omega

section
variable {s t : State}

/-- The shared usage that a claim would leave (R26). -/
theorem sharedUsage_add_claimRise (s : State) (p : Party) (n : Nat) :
    s.sharedUsage + s.claimRise p n = sumParties fun i => vget (vset s.usage p.num (s.used p + n)) i - vget s.guarantee i :=
  (sharedUsage_claim (s := s) (t := { s with usage := vset s.usage p.num (s.used p + n) }) rfl rfl).symm

/-- A claim granted with more used is granted with less used (R26). -/
theorem grants_of_le (hg : t.guarantee = s.guarantee) (hl : t.limit = s.limit) (hu : ∀ p, s.used p ≤ t.used p) {p : Party}
    {n : Nat} (h : t.grants p n = true) : s.grants p n = true := by
  have e1 : t.lim p = s.lim p := by simp only [State.lim, hl]
  have e2 : t.sumGuarantee = s.sumGuarantee := by simp only [State.sumGuarantee, hg]
  simp only [State.grants, Bool.and_eq_true, decide_eq_true_eq, sharedUsage_add_claimRise, e1, e2, hg] at h ⊢
  have hmono : (sumParties fun i => vget (vset s.usage p.num (s.used p + n)) i - vget s.guarantee i) ≤
      sumParties fun i => vget (vset t.usage p.num (t.used p + n)) i - vget s.guarantee i := by
    refine sumParties_mono fun i => Nat.sub_le_sub_right ?_ _
    have := hu p
    have hi := hu (Party.ofNum i)
    simp only [State.used, Party.num_ofNum] at hi this ⊢
    rw [vget_vset, vget_vset]
    split
    · omega
    · exact hi
  have := hu p
  omega

theorem OnlyAccounts.guarantee (h : OnlyAccounts s t) : t.guarantee = s.guarantee := by rw [h.rest]
theorem OnlyAccounts.limit (h : OnlyAccounts s t) : t.limit = s.limit := by rw [h.rest]

/-- An event lowers no usage (R30). -/
theorem OnlyAccounts.used_le (h : OnlyAccounts s t) (p : Party) : s.used p ≤ t.used p := by
  cases p with
  | host k => exact (h.hosts k).ge
  | link x =>
    obtain ⟨taken, -, hl⟩ := h.cells
    rw [(hl x).2]
    exact Nat.le_add_right _ _

/-- What is granted after an event was granted before it. -/
theorem OnlyAccounts.grants (h : OnlyAccounts s t) {p : Party} {n : Nat} (hg : t.grants p n = true) : s.grants p n = true :=
  grants_of_le h.guarantee h.limit h.used_le hg

/-- No reserved list gets shorter at an event (R30). -/
theorem OnlyAccounts.reserved_le (h : OnlyAccounts s t) (x : LinkId) :
    (s.link x).reserved.length ≤ (t.link x).reserved.length := by
  obtain ⟨taken, -, hl⟩ := h.cells
  rw [(hl x).1]
  simp

/-- A link that may reserve after an event might before it (R30). -/
theorem OnlyAccounts.canReserve (h : OnlyAccounts s t) {x : LinkId} (hc : t.canReserve x = true) : s.canReserve x = true := by
  obtain ⟨h1, h2, h3⟩ := State.canReserve_spec hc
  have := h.reserved_le x
  rw [h.state] at h1
  rw [h.ctrl] at h2
  simp only [State.canReserve, Bool.and_eq_true, beq_iff_eq, decide_eq_true_eq]
  exact ⟨⟨h1, by omega⟩, h.grants h3⟩

/-- The cells that an event takes are counted in the usages. -/
theorem OnlyAccounts.balance (h : OnlyAccounts s t) :
    s.free.length + sumParties (vget s.usage) = t.free.length + sumParties (vget t.usage) := by
  obtain ⟨taken, hf, hl⟩ := h.cells
  have hlen : s.free.length = taken.length + t.free.length := by rw [hf]; simp
  have h0 := (hl 0).2
  have h1 := (hl 1).2
  simp only [List.length_map] at h0 h1
  have hsplit : taken.length = (taken.filter fun c => c.1 = 0).length + (taken.filter fun c => c.1 = 1).length := by
    clear hf hlen hl h0 h1
    induction taken with
    | nil => rfl
    | cons c cs ih =>
      rcases link_cases c.1 with e | e <;> simp [e, ih] <;> omega
  have hk (i : Fin 4) := h.hosts i
  have e (s : State) : sumParties (vget s.usage) = s.used (.host 0) + s.used (.host 1) + s.used (.host 2) +
      s.used (.host 3) + s.used (.link 0) + s.used (.link 1) := rfl
  have k0 := hk 0
  have k1 := hk 1
  have k2 := hk 2
  have k3 := hk 3
  rw [e s, e t]
  omega

/-- An event starts from even accounts if it ends with them. -/
theorem OnlyAccounts.even (h : OnlyAccounts s t) (ht : Even t) : Even s :=
  ⟨ht.laws.of_le h.guarantee.symm h.limit.symm h.used_le, h.balance.trans ht.free⟩

end

/-! ### The actions of an event -/

/-- What every action of an event keeps, the event keeps: it is judged at most once, and only the links asked reserve. -/
theorem contend_keeps {ls : List LinkId} {I : Bool → State → Prop} (ties : ∀ w s n, I w s → I w { s with ties := n })
    (judge : ∀ s, I true s → I false s.judgeCells)
    (reserve : ∀ w s x, x ∈ ls → s.canReserve x = true → I w s → I w (s.reserveOne x))
    (owe : ∀ w s, s.comesBetween = true → I w s → I w (s.owe ls)) (fuel : Nat) (w : Bool) (s : State) (h : I w s) :
    ∃ w', I w' (State.contend fuel ls w s) := by
  induction fuel generalizing w s with
  | zero => exact ⟨w, h⟩
  | succ n ih =>
    unfold State.contend
    split
    · exact ⟨w, h⟩
    · rename_i s' hs
      obtain ⟨hm, m, rfl⟩ := State.nextContender_spec hs
      refine ih false _ (judge _ (ties _ _ m ?_))
      cases w with
      | true => exact h
      | false => exact absurd hm (by simp [State.contenders])
    · rename_i x s' hs
      obtain ⟨hm, m, rfl⟩ := State.nextContender_spec hs
      obtain ⟨hx, hc⟩ := State.mem_contenders_link hm
      exact ih w _ (reserve _ _ x hx hc (ties _ _ m h))
    · rename_i s' hs
      obtain ⟨hm, m, rfl⟩ := State.nextContender_spec hs
      exact ⟨w, owe _ _ (State.mem_contenders_command hm).2.1 (ties _ _ m h)⟩

/-- A reserve one with a free cell is the move of R30, and perhaps CELLS LOW. -/
theorem reserveOne_cons {s : State} {x : LinkId} {c : CellId} {rest : List CellId} (hf : s.free = c :: rest) :
    s.reserveOne x = (reservedOne s x c rest).lowMarkTest s.free.length := by
  simp only [State.reserveOne, hf]
  rfl

theorem reserveOne_link {s : State} {x : LinkId} (hf : s.free ≠ []) (y : LinkId) :
    ((s.reserveOne x).link y).reserved.length = (s.link y).reserved.length + (if x = y then 1 else 0) ∧
      ((s.reserveOne x).link y).state = (s.link y).state ∧ ((s.reserveOne x).link y).ctrl = (s.link y).ctrl := by
  obtain ⟨c, rest, hf⟩ := List.exists_cons_of_ne_nil hf
  have e : ((s.reserveOne x).link y) = (reservedOne s x c rest).link y := by
    rw [reserveOne_cons hf]
    rcases (reservedOne s x c rest).lowMarkTest_cases s.free.length with h | h <;> rw [h]
    rfl
  have e2 : (reservedOne s x c rest).link y = if x = y then _ else s.link y := State.setLink_link (s.setFree rest) x _ y
  rw [e, e2]
  split
  · rename_i e; subst e; simp
  · exact ⟨rfl, rfl, rfl⟩

theorem reserveOne_used {s : State} {x : LinkId} (hf : s.free ≠ []) (p : Party) :
    (s.reserveOne x).used p = s.used p + if Party.link x = p then 1 else 0 := by
  obtain ⟨c, rest, hf⟩ := List.exists_cons_of_ne_nil hf
  have e : (s.reserveOne x).used p = (reservedOne s x c rest).used p := by
    rw [reserveOne_cons hf]
    rcases (reservedOne s x c rest).lowMarkTest_cases s.free.length with h | h <;> rw [h]
    rfl
  have e2 : (reservedOne s x c rest).used p = if Party.link x = p then s.used (.link x) + 1 else s.used p :=
    State.setUsed_used _ _ _ p
  rw [e, e2]
  split
  · rename_i e; rw [e]
  · rfl

/-- The accounts stay even through an event. -/
theorem Even.reserveOne {s : State} (h : Even s) {x : LinkId} (hc : s.canReserve x = true) : Even (s.reserveOne x) := by
  have ho := onlyAccounts_reserveOne s x
  obtain ⟨-, -, hg⟩ := State.canReserve_spec hc
  have hf := h.free_pos hg
  refine ⟨h.laws.claim hg ho.guarantee ho.limit ?_, ho.balance.symm.trans h.free⟩
  apply vget_ext
  intro i
  have := reserveOne_used hf (x := x) (Party.ofNum i)
  simp only [State.used, Party.num_ofNum] at this
  rw [this, vget_vset]
  by_cases e : (Party.link x).num = i
  · subst e; simp [State.used]
  · rw [if_neg e, if_neg]
    · rfl
    · rintro e'
      exact e (by rw [e']; simp)

theorem Even.judgeCells {s : State} (h : Even s) : Even s.judgeCells := by
  have ho := onlyAccounts_judgeCells s
  have hof (s : State) (k : PortId) : (s.judgeCellsOf k).free = s.free ∧ (s.judgeCellsOf k).usage = s.usage := by
    rcases s.judgeCellsOf_cases k with e | ⟨-, e⟩ <;> rw [e] <;> exact ⟨rfl, rfl⟩
  have e : s.judgeCells.free = s.free ∧ s.judgeCells.usage = s.usage := by
    simp only [State.judgeCells, hof, and_self]
  exact h.congr e.1 e.2 ho.guarantee ho.limit

/-! ### The end of an event -/

/-- What stands after an event: no link asked may reserve but those left to the command that comes between, and no watch
that was to be judged is granted (R30, R31, R39). -/
structure Settles (ls : List LinkId) (w : Bool) (s t : State) : Prop where
  links : ∀ x ∈ ls, t.canReserve x = true → t.comesBetween = true ∧ x ∈ t.owed
  watches : ∀ k n, w = true → (s.port k).watch = .cells n → 1 ≤ n → t.grants (.host k) n = true → (t.port k).watch = .absent

/-- A watch that is absent stays so. -/
theorem OnlyAccounts.absent {s t : State} (h : OnlyAccounts s t) {k : PortId} (hk : (s.port k).watch = .absent) :
    (t.port k).watch = .absent := by
  obtain ⟨p, hp, e⟩ := h.ports k
  rcases hp with rfl | ⟨hw, -⟩
  · rw [e]
    split <;> exact hk
  · exact absurd hk hw

/-- After the CELLS watches are judged, one that is granted is absent (R39). -/
theorem judgeCells_granted {s : State} {k : PortId} {n : Nat} (hw : (s.port k).watch = .cells n) (hn : 1 ≤ n)
    (hg : s.grants (.host k) n = true) : (s.judgeCells.port k).watch = .absent := by
  have go (u : State) (j : PortId) (h : (u.port k).watch = .absent ∨
      ((u.port k).watch = .cells n ∧ u.grants (.host k) n = true)) :
      ((u.judgeCellsOf j).port k).watch = .absent ∨
        (j ≠ k ∧ ((u.judgeCellsOf j).port k).watch = .cells n ∧ (u.judgeCellsOf j).grants (.host k) n = true) := by
    rcases h with h | ⟨h, hg⟩
    · exact .inl ((onlyAccounts_judgeCellsOf u j).absent h)
    · by_cases e : j = k
      · subst e
        refine .inl ?_
        rw [State.judgeCellsOf, h]
        simp only [if_pos (And.intro hn hg), State.setPort_port, if_pos]
        rfl
      · rcases u.judgeCellsOf_cases j with e' | ⟨-, e'⟩ <;> rw [e']
        · exact .inr ⟨e, h, hg⟩
        · refine .inr ⟨e, ?_, hg⟩
          rw [State.setPort_port, if_neg e, h]
  have h0 := go s 0 (.inr ⟨hw, hg⟩)
  have h1 := go _ 1 (h0.imp_right And.right)
  have h2 := go _ 2 (h1.imp_right And.right)
  have h3 := go _ 3 (h2.imp_right And.right)
  unfold State.judgeCells
  rcases port_cases k with rfl | rfl | rfl | rfl
  · rcases h0 with h | ⟨c, -⟩
    · exact (onlyAccounts_judgeCellsOf _ 3).absent ((onlyAccounts_judgeCellsOf _ 2).absent
        ((onlyAccounts_judgeCellsOf _ 1).absent h))
    · exact absurd rfl c
  · rcases h1 with h | ⟨c, -⟩
    · exact (onlyAccounts_judgeCellsOf _ 3).absent ((onlyAccounts_judgeCellsOf _ 2).absent h)
    · exact absurd rfl c
  · rcases h2 with h | ⟨c, -⟩
    · exact (onlyAccounts_judgeCellsOf _ 3).absent h
    · exact absurd rfl c
  · rcases h3 with h | ⟨c, -⟩
    · exact h
    · exact absurd rfl c

/-- Judging the watches touches no link, no account and no window. -/
theorem judgeCells_windowRoom (s : State) (x : LinkId) : s.judgeCells.windowRoom x = s.windowRoom x := by
  have hof (s : State) (k : PortId) : (s.judgeCellsOf k).windowRoom x = s.windowRoom x := by
    rcases s.judgeCellsOf_cases k with e | ⟨-, e⟩ <;> rw [e]
    rfl
  simp only [State.judgeCells, hof]

theorem sum_windowRoom_reserveOne {s : State} {x : LinkId} (hf : s.free ≠ [])
    (hw : (s.link x).reserved.length < (s.link x).ctrl.window) (ls : List LinkId) :
    (ls.map (s.reserveOne x).windowRoom).sum ≤ (ls.map s.windowRoom).sum ∧
      (x ∈ ls → (ls.map (s.reserveOne x).windowRoom).sum < (ls.map s.windowRoom).sum) := by
  have each (y : LinkId) : (s.reserveOne x).windowRoom y = s.windowRoom y - if x = y then 1 else 0 := by
    obtain ⟨h1, -, h2⟩ := reserveOne_link hf (x := x) y
    simp only [State.windowRoom, h1, h2]
    omega
  have hx : 0 < s.windowRoom x := by simp only [State.windowRoom]; omega
  induction ls with
  | nil => simp
  | cons y ys ih =>
    obtain ⟨ih1, ih2⟩ := ih
    simp only [List.map_cons, List.sum_cons, each y, List.mem_cons]
    refine ⟨by omega, ?_⟩
    rintro (rfl | hm)
    · simp only [if_true]; omega
    · have := ih2 hm; omega

/-- Each action uses a place of a window or judges the watches, so an event with as many actions runs to its end. -/
theorem contend_settles (fuel : Nat) (ls : List LinkId) (w : Bool) (s : State) (he : Even s)
    (hfuel : (ls.map s.windowRoom).sum + w.toNat ≤ fuel) : Settles ls w s (State.contend fuel ls w s) := by
  induction fuel generalizing w s with
  | zero =>
    have hw : w = false := by cases w with
      | false => rfl
      | true => simp at hfuel
    subst hw
    refine ⟨fun x hx hc => ?_, fun k n c => by cases c⟩
    have hr : s.windowRoom x = 0 := by
      have := List.single_le_sum (l := ls.map s.windowRoom) (by simp) _ (List.mem_map_of_mem hx)
      simp at hfuel
      omega
    obtain ⟨-, h2, -⟩ := State.canReserve_spec (show s.canReserve x = true from hc)
    simp only [State.windowRoom] at hr
    omega
  | succ n ih =>
    have evenTies (m : Nat) : Even { s with ties := m } := he.congr rfl rfl rfl rfl
    unfold State.contend
    split
    · rename_i hnone
      have hempty : s.contenders ls w = [] := by
        unfold State.nextContender at hnone
        split at hnone
        · assumption
        · cases hnone
        · cases hnone
      simp only [State.contenders, List.append_eq_nil_iff, List.map_eq_nil_iff, List.filter_eq_nil_iff] at hempty
      refine ⟨fun x hx hc => absurd hc (hempty.2 x hx), fun k n hw hk => ?_⟩
      have hany : s.anyCellsWatch = true := by
        simp only [State.anyCellsWatch, List.any_eq_true]
        exact ⟨s.port k, Vector.mem_toList_iff.mpr (Vector.getElem_mem _), by rw [hk]⟩
      rw [hw, hany] at hempty
      simp at hempty
    · rename_i s' hs
      obtain ⟨hm, m, rfl⟩ := State.nextContender_spec hs
      have hw : w = true := by
        cases w with
        | true => rfl
        | false => exact absurd hm (by simp [State.contenders])
      subst hw
      have hsum : (ls.map ({ s with ties := m } : State).judgeCells.windowRoom).sum = (ls.map s.windowRoom).sum :=
        congrArg List.sum (List.map_congr_left fun x _ => judgeCells_windowRoom { s with ties := m } x)
      have h := ih false _ (evenTies m).judgeCells (by simp at hfuel ⊢; omega)
      refine ⟨h.links, fun k c _ hk hc hg => ?_⟩
      have ho := onlyAccounts_contend n ls false ({ s with ties := m } : State).judgeCells
      refine ho.absent (judgeCells_granted (s := { s with ties := m }) hk hc ?_)
      exact ((onlyAccounts_judgeCells _).trans ho).grants hg
    · rename_i x s' hs
      obtain ⟨hm, m, rfl⟩ := State.nextContender_spec hs
      obtain ⟨hx, hc⟩ := State.mem_contenders_link hm
      have hc' : ({ s with ties := m } : State).canReserve x = true := hc
      obtain ⟨-, hwin, hg⟩ := State.canReserve_spec hc'
      have hlt := (sum_windowRoom_reserveOne ((evenTies m).free_pos hg) hwin ls).2 hx
      have hlt' : (ls.map (({ s with ties := m } : State).reserveOne x).windowRoom).sum < (ls.map s.windowRoom).sum := hlt
      have h := ih w _ ((evenTies m).reserveOne hc') (by omega)
      refine ⟨h.links, fun k c hw hk => h.watches k c hw ?_⟩
      rw [← hk]
      obtain ⟨c', rest, hf⟩ := List.exists_cons_of_ne_nil ((evenTies m).free_pos hg)
      rw [reserveOne_cons hf]
      rcases (reservedOne { s with ties := m } x c' rest).lowMarkTest_cases
        (({ s with ties := m } : State).free.length) with e | e <;> rw [e]
      · rfl
      · rw [State.raiseMgr_port]; rfl
    · rename_i s' hs
      obtain ⟨hm, m, rfl⟩ := State.nextContender_spec hs
      obtain ⟨h1, h2, -⟩ := State.mem_contenders_command hm
      refine ⟨fun x hx _ => ⟨h2, hx⟩, fun k n hw hk => ?_⟩
      have hany : s.anyCellsWatch = true := by
        simp only [State.anyCellsWatch, List.any_eq_true]
        exact ⟨s.port k, Vector.mem_toList_iff.mpr (Vector.getElem_mem _), by rw [hk]⟩
      rw [hw, hany] at h1
      cases h1

/-- An event at even accounts runs to its end (R31, R38). -/
theorem event_settles {s : State} (h : Even s) (ls : List LinkId) (w : Bool) :
    Settles (s.trying ls) w s (s.accountsEvent ls w) := by
  have hfuel : ((s.trying ls).map ({ s with owed := [] } : State).windowRoom).sum + w.toNat ≤
      ((s.trying ls).map s.windowRoom).sum + 1 := Nat.add_le_add_left (Bool.toNat_le w) _
  have ht := contend_settles _ (s.trying ls) w { s with owed := [] } (h.congr rfl rfl rfl rfl) hfuel
  exact ⟨ht.links, ht.watches⟩

end Sys2Proof.Safety
end

section
/-! SUPPORT. The event at the accounts as the statements spell it (O52). -/

namespace Sys2Proof.Safety

open Sys2Proof.Machine

/-! ### The command that comes between -/

/-- The commands that R28 lets come between, by their names. -/
def comesBetweenNamed : Instr → Bool
  | .post _ _ _ | .selectRise _ | .postTimeout _ | .release _ _ | .guaranteeWrite _ _ _ | .limitWrite _ _ _
  | .writeItem _ _ _ | .linkDisable _ _ _ | .fence _ _ _ | .purge _ _ _ | .drain _ _ _ | .sendFill _ | .eomSent _ .completes
  | .receiveFill _ | .receiveGrant _ | .receiveHeaderByte _ _ | .headerStep _ _ | .receivePayloadByte _ _ | .receiveEom _
  | .receiveAbm _ | .symbolError _ _ | .silence _ => true
  | _ => false

/-- A byte that meets the accounts is the byte of a named command (R28). -/
theorem byteMeets_named {s : State} {k : PortId} {b : Byte} {early : Bool} {st : ByteStep} (h : s.byteMeets k b st = true) :
    ∃ c, comesBetweenNamed c = true ∧ commandOf k b early st = some c := by
  cases st with
  | post | release | guaranteeWrite | limitWrite | linkDisable | purge | drain | writeItem | fence => exact ⟨_, rfl, rfl⟩
  | ignored | plain | undefinedCode | nop | payload | fetch | fetchUq | events | mask | managerMask | query | claim | resign
  | portReset | readItem | routeWrite | portaddrWrite | depthWrite | runlimitWrite | posttimeoutWrite | lowmarkWrite | linkEnable
  | unfence | restart => cases h

/-- A command that meets the accounts is named, or is the in byte of one that is (R28). -/
theorem meetsAccounts_named {s : State} {c : Instr} (h : s.meetsAccounts c = true) :
    comesBetweenNamed c = true ∨
      ∃ k b early d, c = .inByteCompletion k b early ∧ comesBetweenNamed d = true ∧
        commandOf k b early (s.byteStep k b) = some d := by
  cases c with
  | inByteCompletion k b early =>
    obtain ⟨d, h1, h2⟩ := byteMeets_named (early := early) h
    exact .inr ⟨k, b, early, d, rfl, h1, h2⟩
  | eomSent x m =>
    cases m with
    | begins => cases h
    | completes => exact .inl rfl
  | selectRise | postTimeout | post | release | writeItem | guaranteeWrite | limitWrite | linkDisable | fence | purge | drain
  | sendFill | receiveFill | receiveGrant | receiveHeaderByte | headerStep | receivePayloadByte | receiveEom
  | receiveAbm | symbolError | silence => exact .inl rfl
  | powerOnReset | selectFall | undefinedRequestCode | nop | postPayloadByte | fetch | fetchUq | events | mask
  | managerMaskWrite | query | claim | resign | portReset | readItem | routeWrite | portaddrWrite | depthWrite | runlimitWrite
  | posttimeoutWrite | lowmarkWrite | linkEnable | unfence | restart | sendGrant | sendHeaderByte | sendPayloadByte | sendAbm
  | settleEnd | holdEnd => cases h

/-! ### What the actions keep -/

/-- What is so of the links after some actions of an event that started at `s` for the links `ls` (R30). -/
structure LinksWithin (s : State) (ls : List LinkId) (u : State) : Prop where
  unasked : ∀ y, y ∉ ls → u.link y = s.link y
  within :
    ∀ x, (u.link x).reserved ≠ (s.link x).reserved →
      (u.link x).state = .active ∧ (u.link x).reserved.length ≤ (u.link x).ctrl.window ∧
        u.used (.link x) ≤ u.lim (.link x) ∧ u.sumGuarantee + u.sharedUsage ≤ 512

theorem LinksWithin.congr {s : State} {ls : List LinkId} {u v : State} (h : LinksWithin s ls u) (hl : v.links = u.links)
    (hu : v.usage = u.usage) (hm : v.limit = u.limit) (hg : v.guarantee = u.guarantee) : LinksWithin s ls v := by
  have hlink (x : LinkId) : v.link x = u.link x := State.link_congr hl x
  refine ⟨fun y hy => (hlink y).trans (h.unasked y hy), fun x hx => ?_⟩
  rw [hlink] at hx
  have := h.within x hx
  simpa only [hlink, State.used, State.lim, State.sumGuarantee, State.sharedUsage, hu, hm, hg] using this

theorem LinksWithin.reserveOne {s : State} {ls : List LinkId} {u : State} (h : LinksWithin s ls u) {x : LinkId} (hx : x ∈ ls)
    (hc : u.canReserve x = true) : LinksWithin s ls (u.reserveOne x) := by
  by_cases hf : u.free = []
  · have e : u.reserveOne x = u := by simp [State.reserveOne, hf]
    rwa [e]
  obtain ⟨c, rest, hcons⟩ := List.exists_cons_of_ne_nil hf
  obtain ⟨ha, hw, hg⟩ := State.canReserve_spec hc
  have ho := onlyAccounts_reserveOne u x
  have hlink (y : LinkId) (hy : y ≠ x) : (u.reserveOne x).link y = u.link y := by
    rw [reserveOne_cons hcons]
    rcases (reservedOne u x c rest).lowMarkTest_cases u.free.length with e | e <;> rw [e]
    · exact (State.setLink_link (u.setFree rest) x _ y).trans (if_neg (Ne.symm hy))
    · exact (State.setLink_link (u.setFree rest) x _ y).trans (if_neg (Ne.symm hy))
  have hshared : (u.reserveOne x).sumGuarantee + (u.reserveOne x).sharedUsage ≤ 512 := by
    have hu : (u.reserveOne x).usage = vset u.usage (Party.link x).num (u.used (.link x) + 1) := by
      rw [reserveOne_cons hcons]
      rcases (reservedOne u x c rest).lowMarkTest_cases u.free.length with e | e <;> rw [e] <;> rfl
    have e := sharedUsage_claim (t := u.reserveOne x) ho.guarantee hu
    simp only [State.grants, Bool.and_eq_true, decide_eq_true_eq, Config.cellCount] at hg
    have e2 : (u.reserveOne x).sumGuarantee = u.sumGuarantee := by simp only [State.sumGuarantee, ho.guarantee]
    omega
  refine ⟨fun y hy => ?_, fun y hy => ?_⟩
  · rw [hlink y fun e => hy (e ▸ hx), h.unasked y hy]
  · have hlim : (u.reserveOne x).lim (.link y) = u.lim (.link y) := by simp only [State.lim, ho.limit]
    by_cases e : y = x
    · subst e
      obtain ⟨h1, h2, h3⟩ := reserveOne_link hf (x := y) y
      have h4 := reserveOne_used hf (x := y) (.link y)
      simp only [if_pos] at h1 h4
      simp only [State.grants, Bool.and_eq_true, decide_eq_true_eq] at hg
      rw [h1, h2, h3, h4, hlim]
      exact ⟨ha, hw, hg.1, hshared⟩
    · rw [hlink y e] at hy ⊢
      have h4 := reserveOne_used hf (x := x) (.link y)
      rw [if_neg fun c => e (by cases c; rfl)] at h4
      obtain ⟨h5, h6, h7, -⟩ := h.within y hy
      rw [h4, hlim]
      exact ⟨h5, h6, h7, hshared⟩

theorem judgeCells_rest (s : State) : s.judgeCells = { s with ports := s.judgeCells.ports } := by
  have hof (s : State) (k : PortId) : s.judgeCellsOf k = { s with ports := (s.judgeCellsOf k).ports } := by
    rcases s.judgeCellsOf_cases k with e | ⟨-, e⟩ <;> rw [e]
    rfl
  unfold State.judgeCells
  rw [hof (((s.judgeCellsOf 0).judgeCellsOf 1).judgeCellsOf 2) 3, hof ((s.judgeCellsOf 0).judgeCellsOf 1) 2,
    hof (s.judgeCellsOf 0) 1, hof s 0]

theorem event_linksWithin (s : State) (ls : List LinkId) (w : Bool) :
    LinksWithin s (s.trying ls) (s.accountsEvent ls w) := by
  have h0 : LinksWithin s (s.trying ls) { s with owed := [] } := ⟨fun _ _ => rfl, fun x hx => absurd rfl hx⟩
  obtain ⟨-, h⟩ := contend_keeps (I := fun _ u => LinksWithin s (s.trying ls) u) (fun _ _ _ h => h.congr rfl rfl rfl rfl)
    (fun u h => by rw [judgeCells_rest]; exact h.congr rfl rfl rfl rfl) (fun _ _ _ hx hc h => h.reserveOne hx hc)
    (fun _ _ _ h => h.congr rfl rfl rfl rfl) (((s.trying ls).map s.windowRoom).sum + 1) w _ h0
  exact h

/-- What is so of the watches after some actions of an event that started at `s` with the watches to be judged or not. -/
structure WatchesWithin (s : State) (w : Bool) (u : State) : Prop where
  only : OnlyAccounts s u
  watches :
    ∀ k, (u.port k).watch = (s.port k).watch ∨
      w = true ∧ ∃ n, (s.port k).watch = .cells n ∧ 1 ≤ n ∧ s.grants (.host k) n = true

theorem WatchesWithin.judgeCellsOf {s u : State} (h : WatchesWithin s true u) (j : PortId) :
    WatchesWithin s true (u.judgeCellsOf j) := by
  refine ⟨h.only.trans (onlyAccounts_judgeCellsOf u j), fun k => ?_⟩
  rcases u.judgeCellsOf_cases j with e | ⟨⟨n, hw, hn, hg⟩, e⟩ <;> rw [e]
  · exact h.watches k
  · rw [State.setPort_port]
    split
    · rename_i e
      subst e
      rcases h.watches j with h1 | h1
      · exact .inr ⟨rfl, n, by rw [← h1, hw], hn, h.only.grants hg⟩
      · exact .inr h1
    · exact h.watches k

theorem event_watches (s : State) (ls : List LinkId) (w : Bool) : WatchesWithin s w (s.accountsEvent ls w) := by
  have h0 : WatchesWithin s w { s with owed := [] } := ⟨onlyAccounts_owe s [], fun _ => .inl rfl⟩
  obtain ⟨w', h, -⟩ := contend_keeps (ls := s.trying ls) (I := fun w' u => WatchesWithin s w u ∧ (w' = true → w = true))
    (fun _ u n h => ⟨⟨h.1.only.trans (onlyAccounts_ties u n), h.1.watches⟩, h.2⟩)
    (fun u h => by
      obtain ⟨h1, h2⟩ := h
      have := h2 rfl
      subst this
      exact ⟨((((h1.judgeCellsOf 0).judgeCellsOf 1).judgeCellsOf 2).judgeCellsOf 3), fun c => by cases c⟩)
    (fun _ u x _ _ h => ⟨⟨h.1.only.trans (onlyAccounts_reserveOne u x), fun k => by
      obtain ⟨h1, -⟩ := h
      have e : ((u.reserveOne x).port k).watch = (u.port k).watch := by
        unfold State.reserveOne
        split
        · rfl
        · rcases State.lowMarkTest_cases _ _ with e | e <;> rw [e]
          · rfl
          · rw [State.raiseMgr_port]; rfl
      rw [e]
      exact h1.watches k⟩, h.2⟩)
    (fun _ u _ h => ⟨⟨h.1.only.trans (onlyAccounts_owe u _), h.1.watches⟩, h.2⟩)
    (((s.trying ls).map s.windowRoom).sum + 1) w _ ⟨h0, id⟩
  exact h

/-- An event leaves the model's note of a full class. -/
theorem event_ahead (s : State) (ls : List LinkId) (w : Bool) : (s.accountsEvent ls w).ahead = s.ahead := by
  obtain ⟨-, h⟩ := contend_keeps (ls := s.trying ls) (I := fun _ u => u.ahead = s.ahead) (fun _ _ _ h => h)
    (fun u h => by rw [judgeCells_rest]; exact h)
    (fun _ u x _ _ h => by
      unfold State.reserveOne
      split
      · exact h
      · rcases State.lowMarkTest_cases _ _ with e | e <;> rw [e] <;> exact h)
    (fun _ _ _ h => h) (((s.trying ls).map s.windowRoom).sum + 1) w { s with owed := [] } rfl
  exact h

/-- Settles O52: an event is a run of single actions, each of which keeps what is said of ports and links; it has as many
actions as it can need, so what is left granted is what the waiting command comes between. -/
theorem reservationsSettle : Obligations.ReservationsSettle := by
  refine ⟨fun s => ⟨rfl, State.resume_nil⟩, fun x s => ⟨rfl, State.finish_nil⟩, fun s hs => ?_, fun ls w s => ?_⟩
  · obtain ⟨c, hc, hm⟩ := State.comesBetween_spec hs
    intro named
    have hn (c : Instr) : named c = comesBetweenNamed c := by cases c <;> rfl
    rcases meetsAccounts_named hm with h | ⟨k, b, early, d, rfl, h1, h2⟩
    · exact ⟨c, (hn c).trans h, .inl hc⟩
    · exact ⟨d, (hn d).trans h1, .inr ⟨k, b, early, hc, h2⟩⟩
  · intro t low noted stays satisfied
    have ho := onlyAccounts_event s ls w
    have hw := event_watches s ls w
    have hl := event_linksWithin s ls w
    have port (k : PortId) : stays k ∨ (s.port k).watch ≠ .absent ∧ satisfied k := by
      obtain ⟨p, hp, e⟩ := ho.ports k
      rcases hp with rfl | ⟨hne, rfl⟩
      · exact .inl e
      · exact .inr ⟨hne, e⟩
    have absent (k : PortId) (hk : satisfied k) : (t.port k).watch = .absent := by
      rw [hk]
      simp only [noted]
      split <;> rfl
    refine ⟨ho, ho.cells, ho.manager, fun k => ?_, fun y h1 h2 => hl.unasked y fun hy => ?_, event_ahead s ls w, fun x hx => ?_,
      hl.within, fun h1 h2 h3 => ?_⟩
    · rcases port k with h | ⟨hne, h⟩
      · exact .inl h
      · rcases hw.watches k with e | ⟨hwt, hn⟩
        · exact absurd (e.symm.trans (absent k h)) hne
        · exact .inr ⟨h, hwt, hn⟩
    · rcases State.mem_trying.mp hy with h | h
      · exact h2 h
      · exact h1 h
    · rcases s.accountsEvent_owed ls w with e | ⟨hb, e⟩
      · rw [show t.owed = [] from e] at hx; cases hx
      · rw [show t.owed = _ from e] at hx
        exact ⟨hb, (State.mem_trying.mp hx).symm⟩
    · have hs := event_settles (Even.of_exact h1 h2 h3) ls w
      refine ⟨fun x hx ha hwin hg => hs.links x (State.mem_trying.mpr hx.symm) ?_, fun k n hwt hk hn hg => ?_⟩
      · simp only [State.canReserve, Bool.and_eq_true, beq_iff_eq, decide_eq_true_eq]
        exact ⟨⟨ha, hwin⟩, hg⟩
      · have habs := hs.watches k n hwt hk hn hg
        refine ((port k).resolve_left fun h => ?_).2
        rw [show s.accountsEvent ls w = t from rfl, h] at habs
        have : ((noted (s.port k)).watch) = (s.port k).watch := by
          simp only [noted]
          split <;> rfl
        rw [this, hk] at habs
        cases habs

end Sys2Proof.Safety
end

section
/-! SUPPORT. What the reserve ones left over are through a command (O8): a link that may reserve is one whose reserve ones are
left, and a full class is noted only while a POST waits. -/

namespace Sys2Proof.Safety

open Sys2Proof.Machine

/-! ### Links that may reserve -/

/-- Every link that may reserve is one whose reserve ones are left (R30, R31). -/
def Settled (s : State) : Prop := ∀ x, s.canReserve x = true → x ∈ s.owed

section
variable {s t u : State}

/-- A change that gives no link a reason to reserve, and leaves the accounts, what is left and what is noted. -/
structure Quiet (s t : State) : Prop where
  free : t.free = s.free
  usage : t.usage = s.usage
  guarantee : t.guarantee = s.guarantee
  limit : t.limit = s.limit
  owed : t.owed = s.owed
  ahead : t.ahead = s.ahead
  can : ∀ x, t.canReserve x = true → s.canReserve x = true

theorem Quiet.refl (s : State) : Quiet s s := ⟨rfl, rfl, rfl, rfl, rfl, rfl, fun _ => id⟩

theorem Quiet.trans (h : Quiet s t) (g : Quiet t u) : Quiet s u :=
  ⟨g.free.trans h.free, g.usage.trans h.usage, g.guarantee.trans h.guarantee, g.limit.trans h.limit, g.owed.trans h.owed,
    g.ahead.trans h.ahead, fun x hx => h.can x (g.can x hx)⟩

theorem Quiet.settled (h : Quiet s t) (hs : Settled s) : Settled t := fun x hx => by rw [h.owed]; exact hs x (h.can x hx)

theorem Quiet.even (h : Quiet s t) (ht : Even t) : Even s :=
  ht.congr h.free.symm h.usage.symm h.guarantee.symm h.limit.symm

theorem canReserve_eq_true {x : LinkId} :
    s.canReserve x = true ↔
      (s.link x).state = .active ∧ (s.link x).reserved.length < (s.link x).ctrl.window ∧ s.grants (.link x) 1 = true :=
  ⟨State.canReserve_spec, fun ⟨h1, h2, h3⟩ => by simp [State.canReserve, h1, h2, h3]⟩

/-- The admission test reads the accounts alone (R26). -/
theorem grants_congr (hu : t.usage = s.usage) (hg : t.guarantee = s.guarantee) (hl : t.limit = s.limit) (p : Party) (n : Nat) :
    t.grants p n = s.grants p n := by
  change State.grants { s with usage := t.usage, guarantee := t.guarantee, limit := t.limit } p n = s.grants p n
  rw [hu, hg, hl]

theorem Quiet.of_links (hf : t.free = s.free) (hu : t.usage = s.usage) (hg : t.guarantee = s.guarantee)
    (hl : t.limit = s.limit) (ho : t.owed = s.owed) (ha : t.ahead = s.ahead)
    (hx : ∀ x, (t.link x).state = .active →
      (s.link x).state = .active ∧
        ((t.link x).reserved.length < (t.link x).ctrl.window → (s.link x).reserved.length < (s.link x).ctrl.window)) :
    Quiet s t := by
  refine ⟨hf, hu, hg, hl, ho, ha, fun x hc => ?_⟩
  obtain ⟨h1, h2, h3⟩ := canReserve_eq_true.mp hc
  obtain ⟨g1, g2⟩ := hx x h1
  exact canReserve_eq_true.mpr ⟨g1, g2 h2, by rwa [grants_congr hu hg hl] at h3⟩

/-- A change that leaves the links. -/
theorem Quiet.of_eq (hf : t.free = s.free) (hu : t.usage = s.usage) (hg : t.guarantee = s.guarantee) (hl : t.limit = s.limit)
    (ho : t.owed = s.owed) (ha : t.ahead = s.ahead) (hx : t.links = s.links) : Quiet s t :=
  .of_links hf hu hg hl ho ha fun x h => by
    rw [State.link_congr hx x] at h ⊢
    exact ⟨h, id⟩

theorem quiet_setPort (s : State) (k : PortId) (p : Port) : Quiet s (s.setPort k p) := .of_eq rfl rfl rfl rfl rfl rfl rfl

theorem quiet_raiseMgr (s : State) (e : MgrEvent) : Quiet s (s.raiseMgr e) := .of_eq rfl rfl rfl rfl rfl rfl rfl

theorem quiet_raiseHost (s : State) (k : PortId) (e : HostEvent) : Quiet s (s.raiseHost k e) := quiet_setPort s k _

theorem quiet_setRun (s : State) (d : Party) (n : Nat) : Quiet s (s.setRun d n) := .of_eq rfl rfl rfl rfl rfl rfl rfl

theorem quiet_setManager (s : State) (o : Option PortId) (b : Byte) : Quiet s (s.setManager o b) :=
  .of_eq rfl rfl rfl rfl rfl rfl rfl

theorem quiet_setRecState (s : State) (n : RecId) (st : RecState) : Quiet s (s.setRecState n st) := by
  rw [State.setRecState_spec]
  exact .of_eq rfl rfl rfl rfl rfl rfl rfl

theorem quiet_clearLoan (s : State) (k : PortId) : Quiet s (s.clearLoan k) := by
  rcases s.clearLoan_cases k with ⟨-, e⟩ | ⟨l, -, e⟩ <;> rw [e]
  · exact .refl s
  · exact (quiet_setRecState s _ _).trans (quiet_setPort _ _ _)

/-- A link that is ACTIVE only if it was, and then with the places it had. -/
theorem quiet_setLink {x : LinkId} {l : Link} (h : l.state = .active →
    (s.link x).state = .active ∧ (l.reserved.length < l.ctrl.window → (s.link x).reserved.length < (s.link x).ctrl.window)) :
    Quiet s (s.setLink x l) := by
  refine .of_links rfl rfl rfl rfl rfl rfl fun y hy => ?_
  rw [State.setLink_link] at hy ⊢
  split at hy
  · rename_i e; subst e; rw [if_pos rfl]; exact h hy
  · rename_i e; rw [if_neg e]; exact ⟨hy, id⟩

theorem quiet_transmitterChoose (s : State) (x : LinkId) : Quiet s (s.transmitterChoose x) := by
  rcases s.transmitterChoose_cases x with e | ⟨n, c, k, -, ha, -, -, -, e⟩ <;> rw [e]
  · exact .refl s
  · exact ((quiet_setRun s _ _).trans (quiet_setRecState _ _ _)).trans (quiet_setLink fun _ => by
      rw [State.setRecState_spec]; exact ⟨ha, id⟩)

theorem quiet_commitEvent (s : State) (t : Target) : Quiet s (s.commitEvent t) := by
  unfold State.commitEvent
  split
  · exact quiet_raiseHost _ _ _
  · exact quiet_transmitterChoose _ _
  · exact quiet_raiseMgr _ _
  · exact .refl s

theorem quiet_commit (s : State) (n : RecId) : Quiet s (s.commit n) := by
  cases hr : s.record n with
  | none => simp only [State.commit, hr]; exact .refl s
  | some r =>
    rw [State.commit_spec hr]
    refine Quiet.trans (t := committed s n r) ?_ (quiet_commitEvent _ _)
    rw [committed_rest]
    exact .of_eq rfl rfl rfl rfl rfl rfl rfl

theorem quiet_storePayload (s : State) (n : RecId) (b : Byte) : Quiet s (s.storePayload n b) := by
  rw [storePayload_rest]
  exact .of_eq rfl rfl rfl rfl rfl rfl rfl

theorem quiet_judgeDepth (s : State) (falls : List QueueId) : Quiet s (s.judgeDepth falls) := .of_eq rfl rfl rfl rfl rfl rfl rfl

/-- An event at the accounts settles the links it is for, with those left before (R31). -/
theorem settled_event (he : Even s) {ls : List LinkId} (hc : ∀ x, s.canReserve x = true → x ∈ s.owed ∨ x ∈ ls) (w : Bool) :
    Settled (s.accountsEvent ls w) := fun x hx =>
  ((event_settles he ls w).links x (State.mem_trying.mpr (hc x ((onlyAccounts_event s ls w).canReserve hx))) hx).2

theorem mem_bothLinks (x : LinkId) : x ∈ bothLinks := by revert x; decide

/-- The reserve ones of a link made, none may be reserved there, and the other link is as it was (R153). -/
theorem settled_finish (he : Even s) (hs : Settled s) (x : LinkId) :
    Settled (s.finish x) ∧ (s.finish x).canReserve x = false := by
  have hf := onlyAccounts_finish s x
  have hx : (s.finish x).canReserve x = false := by
    by_contra hc
    rw [Bool.not_eq_false] at hc
    have hmem := hs x (hf.canReserve hc)
    have he' : Even { s with pending := [], owed := s.owed.filter (· == x) } := he.congr rfl rfl rfl rfl
    have h := (event_settles he' [] false).links x (State.mem_trying.mpr (.inl (by simp [hmem]))) hc
    have hp := (onlyAccounts_event { s with pending := [], owed := s.owed.filter (· == x) } [] false).pending
    rw [State.comesBetween, hp] at h
    exact absurd h.1 (by simp)
  refine ⟨fun y hy => State.mem_finish_owed.mpr ⟨hs y (hf.canReserve hy), ?_⟩, hx⟩
  rintro rfl
  rw [hx] at hy
  cases hy

/-! ### A POST that waits -/

/-- A POST that was due is still due, the same command waits, and the note is as it was. -/
structure Due (s t : State) : Prop where
  pending : t.pending = s.pending
  ahead : t.ahead = s.ahead
  due : ∀ k, (s.port k).postDue = true → (t.port k).postDue = true

theorem Due.refl (s : State) : Due s s := ⟨rfl, rfl, fun _ => id⟩

theorem Due.trans (h : Due s t) (g : Due t u) : Due s u :=
  ⟨g.pending.trans h.pending, g.ahead.trans h.ahead, fun k hk => g.due k (h.due k hk)⟩

theorem waitingPost_ne_none :
    s.waitingPost ≠ none ↔
      ∃ k b early rest, (s.pending = .post k b early :: rest ∨ s.pending = .inByteCompletion k b early :: rest) ∧
        (s.port k).postDue = true := by
  unfold State.waitingPost
  split
  · rename_i k b e rest hp
    constructor
    · intro h
      refine ⟨k, b, e, rest, .inl hp, ?_⟩
      by_contra c
      exact h (if_neg c)
    · rintro ⟨k', b', e', rest', h, hd⟩
      rw [hp] at h
      rcases h with h | h <;> cases h
      simp [hd]
  · rename_i k b e rest hp
    constructor
    · intro h
      refine ⟨k, b, e, rest, .inr hp, ?_⟩
      by_contra c
      exact h (if_neg c)
    · rintro ⟨k', b', e', rest', h, hd⟩
      rw [hp] at h
      rcases h with h | h <;> cases h
      simp [hd]
  · rename_i h1 h2
    simp only [ne_eq, not_true_eq_false, false_iff, not_exists, not_and]
    rintro k b e rest (h | h)
    · exact absurd h (h1 k b e rest)
    · exact absurd h (h2 k b e rest)

theorem waitingPost_of_due (hp : t.pending = s.pending)
    (hd : ∀ k, (s.port k).postDue = true → (t.port k).postDue = true) (hs : s.waitingPost ≠ none) : t.waitingPost ≠ none := by
  obtain ⟨k, b, e, rest, hw, hk⟩ := waitingPost_ne_none.mp hs
  exact waitingPost_ne_none.mpr ⟨k, b, e, rest, by rwa [hp], hd k hk⟩

theorem Due.of_ports (hp : t.pending = s.pending) (ha : t.ahead = s.ahead) (h : t.ports = s.ports) : Due s t :=
  ⟨hp, ha, fun k hk => by rw [State.port, h]; exact hk⟩

theorem due_setPort {k : PortId} {p : Port} (h : (s.port k).postDue = true → p.postDue = true) : Due s (s.setPort k p) := by
  refine ⟨rfl, rfl, fun j hj => ?_⟩
  rw [State.setPort_port]
  split
  · rename_i e; subst e; exact h hj
  · exact hj

theorem due_setLink (s : State) (x : LinkId) (l : Link) : Due s (s.setLink x l) := .of_ports rfl rfl rfl

theorem due_setRun (s : State) (d : Party) (n : Nat) : Due s (s.setRun d n) := .of_ports rfl rfl rfl

theorem due_raiseHost (s : State) (k : PortId) (e : HostEvent) : Due s (s.raiseHost k e) := due_setPort id

theorem due_raiseMgr (s : State) (e : MgrEvent) : Due s (s.raiseMgr e) :=
  ⟨rfl, rfl, fun k hk => by rw [State.raiseMgr_port]; exact hk⟩

theorem due_setRecState (s : State) (n : RecId) (st : RecState) : Due s (s.setRecState n st) := by
  rw [State.setRecState_spec]
  exact .of_ports rfl rfl rfl

theorem due_clearLoan (s : State) (k : PortId) : Due s (s.clearLoan k) := by
  rcases s.clearLoan_cases k with ⟨-, e⟩ | ⟨l, -, e⟩ <;> rw [e]
  · exact .refl s
  · refine (due_setRecState s l.recId .queued).trans (due_setPort ?_)
    rw [State.setRecState_spec]
    exact id

theorem due_transmitterChoose (s : State) (x : LinkId) : Due s (s.transmitterChoose x) := by
  rcases s.transmitterChoose_cases x with e | ⟨n, c, k, -, -, -, -, -, e⟩ <;> rw [e]
  · exact .refl s
  · exact ((due_setRun s _ _).trans (due_setRecState _ _ _)).trans (due_setLink _ _ _)

theorem OnlyAccounts.due (h : OnlyAccounts s t) (ha : t.ahead = s.ahead) : Due s t :=
  ⟨h.pending, ha, fun k hk => by rw [h.port k]; exact hk⟩

theorem due_event (s : State) (ls : List LinkId) (w : Bool) : Due s (s.accountsEvent ls w) :=
  (onlyAccounts_event s ls w).due (event_ahead s ls w)

theorem due_finish (s : State) (x : LinkId) : Due s (s.finish x) :=
  (onlyAccounts_finish s x).due (event_ahead { s with pending := [], owed := s.owed.filter (· == x) } [] false)

theorem due_discardOne (s : State) (n : RecId) : Due s (s.discardOne n) := by
  cases hr : s.record n with
  | none => rw [State.discardOne_none hr]; exact .refl s
  | some r =>
    obtain ⟨-, -, -, -, -, -, -, -, -, -, -, -, -, ha, hp⟩ := s.discardOne_keep n
    refine ⟨hp, ha, fun k hk => ?_⟩
    rw [discardOne_port s n k (by simp [hr])]
    unfold Port.dropLoanOf
    split <;> exact hk

theorem due_discardMany (s : State) (ns : List RecId) : Due s (s.discardMany ns) := by
  induction ns generalizing s with
  | nil => exact .refl s
  | cons n ns ih => exact (due_discardOne s n).trans (ih (s.discardOne n))

/-! ### Returns without cells -/

/-- A discard that gives no cell back leaves the accounts (R19). -/
theorem quiet_discardOne {n : RecId} (h : (s.returnedBy n).cells = false) : Quiet s (s.discardOne n) := by
  cases hr : s.record n with
  | none => rw [State.discardOne_none hr]; exact .refl s
  | some r =>
    have hc : r.cells = [] := by simpa [State.returnedBy, hr] using h
    obtain ⟨-, hg, hl, -, -, -, -, -, -, -, -, -, ho, ha, -⟩ := s.discardOne_keep n
    refine .of_links (by rw [discardOne_free hr, hc, List.append_nil]) (vget_ext fun i => ?_) hg hl ho ha fun x => ?_
    · have := discardOne_used hr (p := Party.ofNum i)
      simp only [hc, List.length_nil, Nat.sub_zero, State.used, Party.num_ofNum] at this
      rw [this, ite_self]
    · rw [discardOne_link s n x (by simp [hr])]
      unfold Link.dropSendingOf
      split <;> exact fun c => ⟨c, id⟩

/-- What a discard returns does not hang on what was discarded before, but for a record that is gone. -/
theorem returnedBy_discardOne (s : State) (n m : RecId) (h : (s.returnedBy m).cells = false) :
    ((s.discardOne n).returnedBy m).cells = false := by
  have e : (s.discardOne n).record m = if n = m then none else s.record m := State.discardOne_record s n m
  unfold State.returnedBy at *
  rw [e]
  by_cases hm : n = m
  · rw [if_pos hm]
  · rwa [if_neg hm]

theorem returnedByMany_cells (s : State) (ns : List RecId) :
    (s.returnedByMany ns).cells = false ↔ ∀ n ∈ ns, (s.returnedBy n).cells = false := by
  induction ns with
  | nil => simp [State.returnedByMany]
  | cons n ns ih =>
    have e : (s.returnedByMany (n :: ns)).cells = ((s.returnedBy n).cells || (s.returnedByMany ns).cells) := rfl
    rw [e, Bool.or_eq_false_iff, ih, List.forall_mem_cons]

theorem quiet_discardMany {ns : List RecId} (h : ∀ n ∈ ns, (s.returnedBy n).cells = false) : Quiet s (s.discardMany ns) := by
  induction ns generalizing s with
  | nil => exact .refl s
  | cons n ns ih =>
    rw [List.forall_mem_cons] at h
    exact (quiet_discardOne h.1).trans (ih fun m hm => returnedBy_discardOne s n m (h.2 m hm))

/-! ### Calm -/

/-- What holds between the parts of a command that found the state `s` of the marks: a note is there only where a POST waited, and
a POST that waited still waits. -/
structure Noted (s u : State) : Prop where
  pending : u.pending = s.pending
  ahead : u.ahead ≠ none → s.waitingPost ≠ none
  due : ∀ k, (s.port k).postDue = true → (u.port k).postDue = true

theorem Noted.refl (h : s.ahead = none) : Noted s s := ⟨rfl, fun c => absurd h c, fun _ => id⟩

theorem Noted.then (h : Noted s t) (g : Due t u) : Noted s u :=
  ⟨g.pending.trans h.pending, fun c => h.ahead (by rwa [← g.ahead]), fun k hk => g.due k (h.due k hk)⟩

/-- A port that no POST is due at may change as it likes. -/
theorem Noted.setPort {k : PortId} (h : Noted s t) (hk : (s.port k).postDue = false) (p : Port) : Noted s (t.setPort k p) := by
  refine ⟨h.pending, h.ahead, fun j hj => ?_⟩
  rw [State.setPort_port, if_neg fun e => ?_]
  · exact h.due j hj
  · rw [← e, hk] at hj; cases hj

/-- What the fall of a class notes (R66, log 30). -/
theorem Noted.noteFalls (h : Noted s t) (falls : List QueueId) : Noted s (t.noteFalls s falls) := by
  refine ⟨h.pending, fun c => ?_, h.due⟩
  simp only [State.noteFalls] at c
  cases hw : s.waitingFull with
  | none => rw [hw] at c; exact h.ahead c
  | some q =>
    intro e
    simp [State.waitingFull, e] at hw

theorem due_judgeDepth (s : State) (falls : List QueueId) : Due s (s.judgeDepth falls) :=
  (onlyAccounts_judgeDepth s falls).due rfl

/-- The accounts and the marks at the end of a command, but for what is left from before (R28). -/
structure Calm (u : State) : Prop where
  settled : Settled u
  ahead : u.ahead ≠ none → u.waitingPost ≠ none

theorem Noted.calm (h : Noted s u) (hu : Settled u) : Calm u :=
  ⟨hu, fun c => waitingPost_of_due h.pending h.due (h.ahead c)⟩

/-- A quiet command where no full class was noted. -/
theorem Quiet.calm (hq : Quiet s u) (hs : Settled s) (ha : s.ahead = none) : Calm u :=
  ⟨hq.settled hs, fun c => absurd (hq.ahead.trans ha) c⟩

theorem settled_passOn {before : State} {r : Returned} (he : Even (s.passOn before r)) (hq : r.cells = false → Settled s) :
    Settled (s.passOn before r) := by
  unfold State.passOn at *
  simp only at *
  split at he
  · rename_i hcells
    rw [if_pos hcells]
    exact settled_event ((onlyAccounts_event _ _ _).even he) (fun x _ => .inr (mem_bothLinks x)) true
  · rename_i hcells
    rw [if_neg hcells]
    exact hq (by simpa using hcells)

theorem Noted.passOn (h : Noted s t) (r : Returned) : Noted s (t.passOn s r) := by
  have h' := (h.then (due_judgeDepth t r.falls)).noteFalls r.falls
  unfold State.passOn
  simp only
  split
  · exact h'.then (due_event _ _ _)
  · exact h'

end

end Sys2Proof.Safety
end

section
/-! SUPPORT. What the operations that return or take cells leave of the links that may reserve (O8). -/

namespace Sys2Proof.Safety

open Sys2Proof.Machine

section
variable {s t u : State} {x : LinkId}

/-! ### Changes that concern one link -/

/-- What every link but `x` needs to stay as it was, when the event that follows is for `x`. -/
structure QuietBut (x : LinkId) (s t : State) : Prop where
  owed : t.owed = s.owed
  can : ∀ y, y ≠ x → t.canReserve y = true → s.canReserve y = true

theorem quietBut_setLink (s : State) (x : LinkId) (l : Link) : QuietBut x s (s.setLink x l) := by
  refine ⟨rfl, fun y hy hc => ?_⟩
  rw [canReserve_eq_true, State.setLink_link, if_neg (Ne.symm hy)] at hc
  exact canReserve_eq_true.mpr hc

theorem QuietBut.trans (h : QuietBut x s t) (g : Quiet t u) : QuietBut x s u :=
  ⟨g.owed.trans h.owed, fun y hy hc => h.can y hy (g.can y hc)⟩

/-- The event for the link that changed (R31). -/
theorem QuietBut.settled_event (h : QuietBut x s t) (hs : Settled s) (he : Even (t.accountsEvent [x] false)) :
    Settled (t.accountsEvent [x] false) := by
  refine Safety.settled_event ((onlyAccounts_event _ _ _).even he) (fun y hy => ?_) false
  by_cases e : y = x
  · exact .inr (by simp [e])
  · exact .inl (by rw [h.owed]; exact hs y (h.can y e hy))

/-- A link that cannot reserve after a change that left the other alone. -/
theorem QuietBut.settled (h : QuietBut x s t) (hs : Settled s) (hx : (t.link x).state ≠ .active) : Settled t := by
  intro y hy
  by_cases e : y = x
  · subst e
    exact absurd (canReserve_eq_true.mp hy).1 hx
  · rw [h.owed]
    exact hs y (h.can y e hy)

/-! ### The inbound message, the reserved list and the sending record -/

theorem quiet_closeInbound (h : (s.inboundReturned x).cells = false) : Quiet s (s.closeInbound x) := by
  have close (u : State) : Quiet u (u.setLink x { u.link x with isOpen := false, hdr := [] }) :=
    quiet_setLink fun c => ⟨c, id⟩
  unfold State.inboundReturned at h
  unfold State.closeInbound
  split
  · exact close s
  · rename_i n hn
    rw [hn] at h
    exact (quiet_discardOne h).trans (close _)

theorem due_closeInbound (s : State) (x : LinkId) : Due s (s.closeInbound x) := by
  unfold State.closeInbound
  split
  · exact due_setLink _ _ _
  · exact (due_discardOne _ _).trans (due_setLink _ _ _)

theorem quiet_returnAll (h : (s.link x).reserved = []) : Quiet s (s.returnAll x) := by
  refine .of_links (by simp [State.returnAll, h]) ?_ rfl rfl rfl rfl fun y hy => ?_
  · simp only [State.returnAll, State.setLink_usage, h, List.length_nil, Nat.sub_zero]
    exact vset_vget s.usage _
  · simp only [State.returnAll, State.setLink_link, State.setUsed_link, State.setFree_link] at hy ⊢
    split at hy
    · rename_i e
      subst e
      rw [if_pos rfl]
      exact ⟨hy, by rw [h]; exact id⟩
    · rename_i e
      rw [if_neg e]
      exact ⟨hy, id⟩

theorem due_returnAll (s : State) (x : LinkId) : Due s (s.returnAll x) := .of_ports rfl rfl rfl

theorem quiet_faultSending (h : (s.faultSending x).2.cells = false) : Quiet s (s.faultSending x).1 := by
  unfold State.faultSending at *
  split at h
  · exact .refl s
  · rename_i sd hsd
    have hset : Quiet s (s.setLink x { s.link x with sending := none }) := quiet_setLink fun c => ⟨c, id⟩
    simp only at h ⊢
    split at h
    · exact hset
    · rename_i r hr
      split at h
      · rename_i hlt
        rw [if_pos hlt]
        exact hset.trans (.of_eq rfl rfl rfl rfl rfl rfl rfl)
      · rename_i hlt
        rw [if_neg hlt]
        split at h
        · rename_i huq
          rw [if_pos huq, State.enqueue_rest, State.unqueue_rest]
          exact hset.trans (.of_eq rfl rfl rfl rfl rfl rfl rfl)
        · rename_i huq
          rw [if_neg huq]
          refine (hset.trans (quiet_discardOne ?_)).trans (quiet_raiseMgr _ _)
          exact h

theorem due_faultSending (s : State) (x : LinkId) : Due s (s.faultSending x).1 := by
  unfold State.faultSending
  split
  · exact .refl s
  · simp only
    have hset (sd : Option Sending) : Due s (s.setLink x { s.link x with sending := sd }) := due_setLink _ _ _
    split
    · exact hset _
    · split
      · exact (hset none).trans (.of_ports rfl rfl rfl)
      · split
        · refine .trans ?_ (due_raiseMgr _ _)
          rw [State.enqueue_rest, State.unqueue_rest]
          exact .of_ports rfl rfl rfl
        · exact ((hset none).trans (due_discardOne _ _)).trans (due_raiseMgr _ _)

theorem quiet_raiseDown (s : State) (x : LinkId) (was : LinkState) : Quiet s (s.raiseDown x was) := by
  unfold State.raiseDown
  split
  · exact quiet_raiseMgr _ _
  · exact .refl s

theorem due_raiseDown (s : State) (x : LinkId) (was : LinkState) : Due s (s.raiseDown x was) := by
  unfold State.raiseDown
  split
  · exact due_raiseMgr _ _
  · exact .refl s

/-! ### A fault -/

theorem calm_leaveByFault {kind : LinkFault} (hs : Settled s) (ha : s.ahead = none) (he : Even (s.leaveByFault x kind)) :
    Calm (s.leaveByFault x kind) := by
  unfold State.leaveByFault at *
  simp only at *
  have hres : ((s.closeInbound x).link x).reserved = (s.link x).reserved := by
    obtain ⟨o, e, -⟩ := closeInbound_link s x
    rw [e]
  refine Noted.calm (s := s) (Noted.passOn ?_ _) (settled_passOn he fun hc => ?_)
  · exact ((((Noted.refl ha).then (due_closeInbound s x)).then (due_returnAll _ x)).then (due_faultSending _ x)).then
      ((due_setLink _ _ _).trans (due_raiseDown _ x _))
  · simp only [Returned.and, Bool.or_eq_false_iff] at hc
    obtain ⟨⟨h1, h2⟩, h3⟩ := hc
    have h2' : ((s.closeInbound x).link x).reserved = [] := by
      rw [hres]
      simpa [State.reservedReturned] using h2
    refine Quiet.settled (((((quiet_closeInbound h1).trans (quiet_returnAll h2')).trans (quiet_faultSending h3)).trans
      (quiet_setLink fun c => ?_)).trans (quiet_raiseDown _ x _)) hs
    cases c

/-- A fault leaves no link that may reserve, but those left (R153, R157). -/
theorem calm_linkFault {kind : LinkFault} (hs : Settled s) (ha : s.ahead = none) (h : Even s)
    (he : Even (s.linkFault x kind)) : Calm (s.linkFault x kind) := by
  unfold State.linkFault at *
  split
  · rename_i hst
    rw [if_pos hst] at he
    exact calm_leaveByFault (settled_finish h hs x).1 ((due_finish s x).ahead.trans ha) he
  · exact (Quiet.refl s).calm hs ha

/-! ### A disable -/

theorem quiet_disableSending (s : State) (x : LinkId) : Quiet s (s.disableSending x) := by
  unfold State.disableSending
  split
  · exact .refl s
  · split
    · exact .refl s
    · refine (quiet_setRecState s _ _).trans (quiet_setLink fun c => ?_)
      rw [State.setRecState_spec]
      exact ⟨c, id⟩

theorem due_disableSending (s : State) (x : LinkId) : Due s (s.disableSending x) := by
  unfold State.disableSending
  split
  · exact .refl s
  · split
    · exact .refl s
    · exact (due_setRecState s _ _).trans (due_setLink _ _ _)

theorem returnedBy_cells (s : State) (n : RecId) : (s.returnedBy n).cells = !(cellsAt s n).isEmpty := by
  unfold State.returnedBy cellsAt
  cases s.record n <;> rfl

theorem disableSending_inbound (s : State) (x : LinkId) :
    ((s.disableSending x).inboundReturned x).cells = (s.inboundReturned x).cells := by
  have hrec (u : State) (n m : RecId) (st : RecState) :
      ((u.setRecState m st).returnedBy n).cells = (u.returnedBy n).cells := by
    rw [returnedBy_cells, returnedBy_cells, cellsAt_setRecState]
  unfold State.inboundReturned
  rw [disableSending_slot]
  cases s.slot (.link x) with
  | none => rfl
  | some n =>
    simp only
    unfold State.disableSending
    split
    · rfl
    · split
      · rfl
      · rename_i sd _ _
        exact hrec s n sd.recId .queued

/-- A disable leaves no link that may reserve, but those left (R160). -/
theorem settled_disableCtrl {c : LinkCtrl} (hs : Settled s) (ha : s.ahead = none) (h : Even s)
    (he : Even (s.disableCtrl x c)) :
    Settled (s.disableCtrl x c) ∧ Noted ((s.finish x).setCtrl x c) (s.disableCtrl x c) := by
  have hf := (settled_finish h hs x).1
  have hset := quietBut_setLink (s.finish x) x { (s.finish x).link x with ctrl := c }
  have ha' : ((s.finish x).setCtrl x c).ahead = none := (due_finish s x).ahead.trans ha
  have off (l : Link) (hl : l.state = .off) :
      Settled (((s.finish x).setCtrl x c).setLink x l) ∧
        Noted ((s.finish x).setCtrl x c) (((s.finish x).setCtrl x c).setLink x l) := by
    refine ⟨QuietBut.settled (x := x) (s := s.finish x) ?_ hf ?_, (Noted.refl ha').then (due_setLink _ _ _)⟩
    · rw [State.setCtrl, State.setLink_setLink]
      exact quietBut_setLink _ _ _
    · simp [hl]
  unfold State.disableCtrl State.disableLink at he ⊢
  generalize hv : (s.finish x).setCtrl x c = v at *
  cases hst : (v.link x).state with
  | off =>
    refine ⟨QuietBut.settled (x := x) (s := s.finish x) ?_ hf ?_, Noted.refl ha'⟩
    · rw [← hv]; exact hset
    · rw [hst]; simp
  | start => exact off _ rfl
  | hold => exact off _ rfl
  | active =>
    simp only [hst] at he ⊢
    refine ⟨settled_passOn he fun hc => ?_, Noted.passOn ?_ _⟩
    swap
    · exact ((((Noted.refl ha').then (due_disableSending v x)).then (due_closeInbound _ x)).then (due_returnAll _ x)).then
        ((due_setLink _ _ _).trans (due_raiseDown _ x _))
    · simp only [Returned.and, Bool.or_eq_false_iff] at hc
      obtain ⟨h1, h2⟩ := hc
      obtain ⟨o1, due, e1, -⟩ := disableSending_link v x
      obtain ⟨o2, e2, -⟩ := closeInbound_link (v.disableSending x) x
      have hres : (((v.disableSending x).closeInbound x).link x).reserved = [] := by
        rw [e2, e1]
        simpa [State.reservedReturned] using h2
      have hq : QuietBut x (s.finish x) ((((v.disableSending x).closeInbound x).returnAll x)) := by
        rw [← hv] at hres h1 ⊢
        exact ((hset.trans (quiet_disableSending _ x)).trans
          (quiet_closeInbound ((disableSending_inbound _ x).trans h1))).trans (quiet_returnAll hres)
      refine (quiet_raiseDown _ x .active).settled (QuietBut.settled (hq.trans (quiet_setLink fun c => ?_)) hf ?_)
      · cases c
      · simp

end

end Sys2Proof.Safety
end

section
/-! SUPPORT. What each command leaves of the links that may reserve: the port's commands (O8). -/

namespace Sys2Proof.Safety

open Sys2Proof.Machine

/-- An outcome from which every sound state has its reserve ones done (R30, R31). -/
def Ends (o : Host.Outcome State Fault Refusal) : Prop := ∀ t, o = .next t → Even t → ReservesDone t

/-- A sound state in which no link may reserve, but those left, and no full class is noted. -/
structure Ready (s : State) : Prop where
  sound : Sound s
  settled : Settled s
  ahead : s.ahead = none

section
variable {s u : State} {k : PortId} {b : Byte} {early : Bool}

theorem ends_next (h : Even u → Calm u) : Ends (.next u.resume) := by
  intro t e he
  cases e
  have hu := (onlyAccounts_event u [] false).even he
  obtain ⟨hset, hah⟩ := h hu
  have hset' := settled_event hu (ls := []) (fun x hx => .inl (hset x hx)) false
  refine ⟨fun x h1 h2 h3 => hset' x (canReserve_eq_true.mpr ⟨h1, h2, h3⟩), fun hne => ?_, fun hne => ?_⟩
  · rcases u.accountsEvent_owed [] false with e | ⟨hc, -⟩
    · exact absurd e hne
    · exact hc
  · have hd := due_event u [] false
    exact waitingPost_of_due hd.pending hd.due (hah (by rwa [← hd.ahead]))

theorem ends_quiet (h : Ready s) (hq : Quiet s u) : Ends (.next u.resume) := ends_next fun _ => hq.calm h.settled h.ahead

theorem ends_idle (h : Ready s) : Ends (.next s.resume) := ends_quiet h (.refl s)

theorem ends_answer (h : Ready s) (hq : Quiet s u) {code : Byte} : Ends (.next (u.shift k early code).resume) :=
  ends_quiet h (hq.trans (quiet_setPort _ _ _))

theorem postDue_of_tx {p : Port} (h : p.tx ≠ .running .post) : p.postDue = false := by
  simp [Port.postDue, h]

theorem postDue_of_phase {p : Port} (h : p.phase ≠ .header) : p.postDue = false := by
  simp [Port.postDue, h]

/-- A command whose effects settle the accounts, answered on a port no POST of which was due. -/
theorem ends_calm {v : State} (hk : (v.port k).postDue = false) {p : Port} (h : Even u → Settled u) (hn : Noted v u) :
    Ends (.next (u.setPort k p).resume) :=
  ends_next fun he => (hn.setPort hk p).calm ((quiet_setPort u k p).settled (h ((quiet_setPort u k p).even he)))

theorem ready_setPort (h : Ready s) {p : Port} (hs : Sound (s.setPort k p)) : Ready (s.setPort k p) :=
  ⟨hs, (quiet_setPort s k p).settled h.settled, h.ahead⟩

/-! ### A discard -/

theorem settled_discard (hs : Settled s) {n : RecId} (he : Even (s.discard n)) : Settled (s.discard n) :=
  settled_passOn he fun hc => (quiet_discardOne hc).settled hs

theorem noted_discard (ha : s.ahead = none) (n : RecId) : Noted s (s.discard n) :=
  ((Noted.refl ha).then (due_discardOne s n)).passOn _

theorem settled_abortPost (hs : Settled s) (he : Even (s.abortPost k)) : Settled (s.abortPost k) := by
  unfold State.abortPost at *
  split at he
  · exact hs
  · exact (quiet_raiseHost _ _ _).settled (settled_discard hs ((quiet_raiseHost _ _ _).even he))

theorem noted_abortPost (ha : s.ahead = none) : Noted s (s.abortPost k) := by
  unfold State.abortPost
  split
  · exact .refl ha
  · exact (noted_discard ha _).then (due_raiseHost _ _ _)

/-! ### The transaction -/

theorem ends_selectFall (h : Ready s) : Ends (execSelectFall k s) := by
  unfold execSelectFall
  split
  · exact ends_quiet h (quiet_setPort _ _ _)
  · exact ends_idle h

theorem quiet_closeEvents (s : State) (k : PortId) : Quiet s (s.closeEvents k) := by
  unfold State.closeEvents
  split
  · exact .refl s
  · split
    · exact .of_eq rfl rfl rfl rfl rfl rfl rfl
    · exact .refl s

theorem ends_selectRise (h : Ready s) : Ends (execSelectRise k s) := by
  unfold execSelectRise
  split
  swap
  · exact ends_idle h
  have still {u : State} (hq : Quiet s u) : Ends (.next (u.setPort k (u.port k).closeTx).resume) :=
    ends_quiet h (hq.trans (quiet_setPort _ _ _))
  simp only
  unfold State.closingAction
  split
  · rename_i htx
    split
    · rename_i hph
      have hk : (s.port k).postDue = false := postDue_of_phase (by rw [hph]; simp)
      unfold State.closePost
      split
      · exact still (.refl s)
      · split
        · exact still (.refl s)
        · split
          · exact still (quiet_commit _ _)
          · exact ends_calm hk (settled_abortPost h.settled) (noted_abortPost h.ahead)
    · exact still (.refl s)
  · rename_i htx
    have hk : (s.port k).postDue = false := postDue_of_tx (by rw [htx]; simp)
    unfold State.closeFetch
    split
    · split
      · exact ends_calm hk (settled_discard h.settled) (noted_discard h.ahead _)
      · exact still (.refl s)
    · exact still (.refl s)
  · exact still (quiet_closeEvents s k)
  · exact still (.refl s)

theorem ends_undefinedRequestCode (h : Ready s) : Ends (execUndefinedRequestCode k b early s) := by
  unfold execUndefinedRequestCode
  split
  · exact ends_answer h ((quiet_raiseHost s k _).trans (quiet_setPort _ _ _))
  · exact ends_idle h

theorem ends_nop (h : Ready s) : Ends (execNop k early s) := by
  unfold execNop
  split
  · exact ends_answer h (quiet_setPort _ _ _)
  · exact ends_idle h

theorem ends_postTimeout (h : Ready s) : Ends (execPostTimeout k s) := by
  unfold execPostTimeout
  split
  swap
  · exact ends_idle h
  simp only
  split
  · rename_i hph
    exact ends_calm (postDue_of_phase (by rw [hph]; simp)) (settled_abortPost h.settled) (noted_abortPost h.ahead)
  · exact ends_quiet h (quiet_setPort _ _ _)

theorem ends_query (h : Ready s) : Ends (execQuery k early s) := by
  unfold execQuery
  split
  · exact ends_answer h ((quiet_setPort s k _).trans (quiet_setPort _ _ _))
  · exact ends_idle h

theorem quiet_portReset (s : State) (k : PortId) : Quiet s (s.portReset k) := by
  unfold State.portReset
  simp only
  split
  · exact ((quiet_clearLoan s k).trans (quiet_setPort _ _ _)).trans (quiet_setManager _ _ _)
  · exact (quiet_clearLoan s k).trans (quiet_setPort _ _ _)

theorem ends_portReset (h : Ready s) : Ends (execPortReset k early s) := by
  unfold execPortReset
  split
  · exact ends_answer h ((quiet_setPort s k _).trans (quiet_portReset _ _))
  · exact ends_idle h

/-! ### Events, fetching and the role -/

theorem ends_events (h : Ready s) : Ends (execEvents k early s) := by
  unfold execEvents
  split
  · exact ends_answer h (quiet_setPort _ _ _)
  · exact ends_idle h

theorem ends_mask (h : Ready s) : Ends (execMask k b early s) := by
  unfold execMask
  split
  · exact ends_answer h (quiet_setPort _ _ _)
  · exact ends_idle h

theorem ends_managerMaskWrite (h : Ready s) : Ends (execManagerMaskWrite k b early s) := by
  unfold execManagerMaskWrite
  split
  swap
  · exact ends_idle h
  simp only
  split
  · exact ends_answer h (quiet_setManager _ _ _)
  · exact ends_answer h (.refl s)

theorem quiet_lend (s : State) (k : PortId) (n : RecId) (q : LoanQueue) : Quiet s (s.lend k n q) :=
  (quiet_setRecState s n .loaned).trans (quiet_setPort _ _ _)

theorem quiet_judgeFetch (s : State) (k : PortId) (uq : Bool) : Quiet s (s.judgeFetch k uq).1 := by
  unfold State.judgeFetch State.lendUq State.lendInbox
  split
  · exact .refl s
  split
  · exact .refl s
  split
  · split
    · exact .refl s
    · split
      · exact .refl s
      · exact quiet_lend _ _ _ _
  · split
    · exact .refl s
    · exact (quiet_setRun _ _ _).trans (quiet_lend _ _ _ _)

theorem quiet_fetchStep (s : State) (k : PortId) (b : Byte) (early uq : Bool) : Quiet s (s.fetchStep k b early uq) := by
  refine ((quiet_judgeFetch s k uq).trans ?_).trans (quiet_setPort _ _ _)
  unfold State.startReadout
  split
  · exact quiet_setPort _ _ _
  · exact .refl _

theorem ends_fetch (h : Ready s) : Ends (execFetch k b early s) := by
  unfold execFetch
  split
  · exact ends_quiet h (quiet_fetchStep _ _ _ _ _)
  · exact ends_idle h

theorem ends_fetchUq (h : Ready s) : Ends (execFetchUq k b early s) := by
  unfold execFetchUq
  split
  · exact ends_quiet h (quiet_fetchStep _ _ _ _ _)
  · exact ends_idle h

theorem ends_release (h : Ready s) : Ends (execRelease k early s) := by
  unfold execRelease
  split
  swap
  · exact ends_idle h
  have hq : Quiet s (s.setTx k (.running .release)) := quiet_setPort _ _ _
  simp only
  unfold State.releaseLoan
  split
  · exact ends_answer h hq
  split
  · exact ends_answer h hq
  · exact ends_calm (v := s.setTx k (.running .release)) (postDue_of_tx (by simp)) (settled_discard (hq.settled h.settled))
      (noted_discard (hq.ahead.trans h.ahead) _)

theorem quiet_claimRole (s : State) (k : PortId) : Quiet s (s.claimRole k).1 := by
  unfold State.claimRole
  split
  · exact .refl s
  split
  · exact quiet_setManager _ _ _
  split <;> exact .refl s

theorem ends_claim (h : Ready s) : Ends (execClaim k early s) := by
  unfold execClaim
  split
  · exact ends_answer h ((quiet_setPort s k _).trans (quiet_claimRole _ _))
  · exact ends_idle h

theorem quiet_resignRole (s : State) (k : PortId) : Quiet s (s.resignRole k).1 := by
  unfold State.resignRole State.clearUqLoan
  split
  · exact .refl s
  split
  · exact .refl s
  simp only
  split
  · exact (quiet_setManager s _ _).trans (quiet_clearLoan _ _)
  · exact quiet_setManager s _ _

theorem ends_resign (h : Ready s) : Ends (execResign k early s) := by
  unfold execResign
  split
  · exact ends_answer h ((quiet_setPort s k _).trans (quiet_resignRole _ _))
  · exact ends_idle h

theorem ends_readItem (h : Ready s) : Ends (execReadItem k b early s) := by
  unfold execReadItem
  split
  · exact ends_answer h (quiet_setPort _ _ _)
  · exact ends_idle h

/-! ### Administrative requests -/

/-- The answer of a write or of an administrative request. -/
theorem ends_calmAnswer {v : State} (hk : (v.port k).postDue = false) {code : Byte} (h : Even u → Settled u) (hn : Noted v u) :
    Ends (.next (u.shift k early code).resume) := ends_calm hk h hn

theorem ends_unfence (h : Ready s) : Ends (execUnfence k b early s) := by
  unfold execUnfence
  split
  swap
  · exact ends_idle h
  split
  · exact ends_answer h (.refl s)
  · unfold State.unfencePort
    split
    · exact ends_answer h ((quiet_setPort s _ _).trans (quiet_raiseHost _ _ _))
    · exact ends_answer h (.refl s)

/-- A FENCE that ends no POST in FILLING leaves the accounts (R142). -/
theorem quiet_fencePort (s : State) (j : PortId) (hph : (s.port j).phase ≠ .filling) : Quiet s (s.fencePort j) := by
  have hp : (((s.setPort j { s.port j with fenced := true })).port j).phase ≠ .filling := by simpa using hph
  unfold State.fencePort State.endForFence
  split
  · exact .refl s
  · refine Quiet.trans (Quiet.trans ?_ (quiet_clearLoan _ _)) (quiet_raiseHost _ _ _)
    split
    · exact (quiet_setPort s _ _).trans (quiet_setPort _ _ _)
    · exact quiet_setPort s _ _

theorem ends_fencePort (h : Ready s) (j : PortId) (hk : (s.port k).postDue = false) {code : Byte} :
    Ends (.next ((s.fencePort j).shift k early code).resume) := by
  by_cases hph : (s.port j).phase = .filling
  swap
  · exact ends_answer h (quiet_fencePort s j hph)
  by_cases hf : (s.port j).fenced = true
  · simp only [State.fencePort, if_pos hf]
    exact ends_answer h (.refl s)
  have hq : Quiet s (s.setPort j { s.port j with fenced := true }) := quiet_setPort _ _ _
  generalize hv : s.setPort j { s.port j with fenced := true } = v at hq
  have hkv : (v.port k).postDue = false := by
    rw [← hv, State.setPort_port]
    split
    · rename_i e; rw [← e] at hk; exact hk
    · exact hk
  have hphv : (v.port j).phase = .filling := by simpa [← hv] using hph
  have hj : (v.port j).postDue = false := postDue_of_phase (by rw [hphv]; simp)
  have hsv := hq.settled h.settled
  have hav := hq.ahead.trans h.ahead
  simp only [State.fencePort, if_neg hf, hv, State.endForFence]
  have rest (w : State) : Quiet w ((w.clearLoan j).raiseHost j .fenceChanged) :=
    (quiet_clearLoan w j).trans (quiet_raiseHost _ _ _)
  have due (w : State) : Due w ((w.clearLoan j).raiseHost j .fenceChanged) :=
    (due_clearLoan w j).trans (due_raiseHost _ _ _)
  split
  · refine ends_calm (v := v) hkv (fun he => ?_) (((noted_abortPost hav).setPort hj _).then (due _))
    have hq2 := (quiet_setPort (v.abortPost j) j ((v.abortPost j).port j).endTx).trans (rest _)
    exact hq2.settled (settled_abortPost hsv (hq2.even he))
  · exact ends_answer h (hq.trans (rest v))

theorem ends_fence (h : Ready s) : Ends (execFence k b early s) := by
  unfold execFence
  split
  swap
  · exact ends_idle h
  rename_i hb
  split
  · exact ends_answer h (.refl s)
  · split
    · exact ends_answer h (.refl s)
    · exact ends_fencePort h _ (postDue_of_tx (by rw [byteStep_tx hb rfl]; simp))

theorem due_raiseLoanLost (s : State) (j : PortId) (held : Bool) : Due s (s.raiseLoanLost j held) := by
  unfold State.raiseLoanLost
  split
  · exact due_raiseHost _ _ _
  · exact .refl s

theorem quiet_raiseLoanLost (s : State) (j : PortId) (held : Bool) : Quiet s (s.raiseLoanLost j held) := by
  unfold State.raiseLoanLost
  split
  · exact quiet_raiseHost _ _ _
  · exact .refl s

/-- Several records discarded as one event, with changes that leave the accounts before they are passed on (R20, R73). -/
theorem settled_discards {ns : List RecId} {v w : State} (hs : Settled s) (hq : Quiet s v)
    (hr : v.returnedByMany ns = s.returnedByMany ns) (hw : Quiet (v.discardMany ns) w)
    (he : Even (w.passOn s (s.returnedByMany ns))) : Settled (w.passOn s (s.returnedByMany ns)) := by
  refine settled_passOn he fun hc => hw.settled ((quiet_discardMany ?_).settled (hq.settled hs))
  rwa [← returnedByMany_cells, hr]

theorem ends_purgeInbox (h : Ready s) (j : PortId) (hk : (s.port k).postDue = false) {code : Byte} :
    Ends (.next ((s.purgeInbox j).shift k early code).resume) := by
  have hq (w : State) (held : Bool) : Quiet w ((w.raiseLoanLost j held).raiseHost j .purged) :=
    (quiet_raiseLoanLost w j held).trans (quiet_raiseHost _ _ _)
  refine ends_calm hk (fun he => (hq _ _).settled ?_) (.then ?_ ((due_raiseLoanLost _ _ _).trans (due_raiseHost _ _ _)))
  · exact settled_discards h.settled (.refl s) rfl (quiet_setRun _ _ _) ((hq _ _).even he)
  · exact (((Noted.refl h.ahead).then (due_discardMany s _)).then (due_setRun _ _ _)).passOn _

theorem ends_purgeUq (h : Ready s) (hk : (s.port k).postDue = false) {code : Byte} :
    Ends (.next (s.purgeUq.shift k early code).resume) := by
  have hn : Noted s ((s.discardMany s.uq.recs).passOn s (s.returnedByMany s.uq.recs)) :=
    ((Noted.refl h.ahead).then (due_discardMany s _)).passOn _
  have hset := settled_discards (ns := s.uq.recs) h.settled (.refl s) rfl (.refl _)
  unfold State.purgeUq
  simp only
  split
  · exact ends_calm hk hset hn
  · exact ends_calm hk (fun he => (quiet_raiseLoanLost _ _ _).settled (hset ((quiet_raiseLoanLost _ _ _).even he)))
      (hn.then (due_raiseLoanLost _ _ _))

theorem ends_purge (h : Ready s) : Ends (execPurge k b early s) := by
  unfold execPurge
  split
  swap
  · exact ends_idle h
  rename_i hb
  have hk : (s.port k).postDue = false := postDue_of_tx (by rw [byteStep_tx hb rfl]; simp)
  split
  · exact ends_answer h (.refl s)
  · exact ends_purgeUq h hk
  · exact ends_purgeInbox h _ hk

theorem quiet_drainAbm (s : State) (x : LinkId) : Quiet s (s.drainAbm x) := by
  unfold State.drainAbm
  split
  · exact .refl s
  · split
    · exact quiet_setLink fun c => ⟨c, id⟩
    · exact .refl s

theorem due_drainAbm (s : State) (x : LinkId) : Due s (s.drainAbm x) := by
  unfold State.drainAbm
  split
  · exact .refl s
  · split
    · exact due_setLink _ _ _
    · exact .refl s

theorem drainAbm_returned (s : State) (x : LinkId) (ns : List RecId) :
    (s.drainAbm x).returnedByMany ns = s.returnedByMany ns := by
  unfold State.drainAbm
  split
  · rfl
  · split <;> rfl

theorem ends_drain (h : Ready s) : Ends (execDrain k b early s) := by
  unfold execDrain
  split
  swap
  · exact ends_idle h
  rename_i hb
  have hk : (s.port k).postDue = false := postDue_of_tx (by rw [byteStep_tx hb rfl]; simp)
  split
  · exact ends_answer h (.refl s)
  · rename_i x _
    refine ends_calm hk (fun he => (quiet_transmitterChoose _ x).settled ?_) (.then ?_ (due_transmitterChoose _ x))
    · exact settled_discards h.settled (quiet_drainAbm s x) (drainAbm_returned s x _) (quiet_setRun _ _ _)
        ((quiet_transmitterChoose _ x).even he)
    · exact ((((Noted.refl h.ahead).then (due_drainAbm s x)).then (due_discardMany _ _)).then (due_setRun _ _ _)).passOn _

theorem restart_inactive (s : State) (k : PortId) (x : LinkId) : ((s.restartAll k).link x).state ≠ .active := by
  simp only [State.restartAll, State.link, vget_map, Link.restart]
  split <;> simp

theorem ends_restart (h : Ready s) : Ends (execRestart k early s) := by
  unfold execRestart
  split
  swap
  · exact ends_idle h
  simp only
  split
  · exact ends_answer h (quiet_setPort _ _ _)
  · refine ends_next fun _ => ⟨fun x hx => ?_, fun c => absurd rfl c⟩
    obtain ⟨ha, -⟩ := canReserve_eq_true.mp hx
    rw [State.shift_link] at ha
    exact absurd ha (restart_inactive _ k x)

end

end Sys2Proof.Safety
end

section
/-! SUPPORT. What each command leaves of the links that may reserve: the item writes, the posts and the links (O8). -/

namespace Sys2Proof.Safety

open Sys2Proof.Machine

section
variable {s u : State} {k : PortId} {b : Byte} {early : Bool}

/-! ### Item writes -/

/-- A write: quiet, or what its effect ends in. -/
theorem ends_answerWrite {α : Type} (h : Ready s) {verdict : Except Status α} {effect : α → State}
    (he : ∀ a, verdict = .ok a → ∀ code, Ends (.next ((effect a).shift k early code).resume)) :
    Ends (.next (s.answerWrite k early verdict effect).resume) := by
  unfold State.answerWrite
  split
  · exact ends_answer h (.refl s)
  · exact he _ rfl _

/-- An effect that settles the accounts, with no full class noted. -/
theorem ends_settled (h : Even u → Settled u) (ha : u.ahead = none) {code : Byte} :
    Ends (.next (u.shift k early code).resume) :=
  ends_next fun he => (quiet_setPort u k _).calm (h ((quiet_setPort u k _).even he)) ha

theorem ends_routeWrite (h : Ready s) : Ends (execRouteWrite k b early s) := by
  unfold execRouteWrite
  split
  · exact ends_answerWrite h fun a _ _ => ends_answer (u := s.setRoute a.1 a.2) h (.of_eq rfl rfl rfl rfl rfl rfl rfl)
  · exact ends_idle h

theorem ends_portaddrWrite (h : Ready s) : Ends (execPortaddrWrite k b early s) := by
  unfold execPortaddrWrite
  split
  · exact ends_answerWrite h fun a _ _ => ends_answer h (quiet_setPort _ _ _)
  · exact ends_idle h

theorem ends_guaranteeWrite (h : Ready s) : Ends (execGuaranteeWrite k b early s) := by
  unfold execGuaranteeWrite
  split
  · refine ends_answerWrite h fun a _ _ =>
      ends_settled (u := s.setGuarantee a.1 a.2) (fun he => ?_) ((due_event _ bothLinks true).ahead.trans h.ahead)
    exact settled_event ((onlyAccounts_event _ _ _).even he) (fun x _ => .inr (mem_bothLinks x)) true
  · exact ends_idle h

/-- A link whose limit did not change may reserve only if it might before (R36). -/
theorem canReserve_setLimit {p : Party} {l : Nat} {x : LinkId} (hx : p ≠ .link x)
    (h : State.canReserve { s with limit := vset s.limit p.num l } x = true) : s.canReserve x = true := by
  obtain ⟨h1, h2, h3⟩ := canReserve_eq_true.mp h
  refine canReserve_eq_true.mpr ⟨h1, h2, ?_⟩
  have e : State.lim { s with limit := vset s.limit p.num l } (.link x) = s.lim (.link x) := by
    simp only [State.lim]
    rw [vget_vset, if_neg fun e => hx (Party.num_inj.mp e)]
  unfold State.grants at h3 ⊢
  rw [e] at h3
  exact h3

theorem ends_limitWrite (h : Ready s) : Ends (execLimitWrite k b early s) := by
  unfold execLimitWrite
  split
  · refine ends_answerWrite h fun a _ _ =>
      ends_settled (u := s.setLimit a.1 a.2) (fun he => ?_) ((due_event _ (ownLink a.1) true).ahead.trans h.ahead)
    refine settled_event ((onlyAccounts_event _ _ _).even he) (fun x hx => ?_) true
    by_cases hp : a.1 = .link x
    · exact .inr (by simp [hp, ownLink])
    · exact .inl (h.settled x (canReserve_setLimit hp hx))
  · exact ends_idle h

theorem ends_depthWrite (h : Ready s) : Ends (execDepthWrite k b early s) := by
  unfold execDepthWrite
  split
  · exact ends_answerWrite h fun a _ _ =>
      ends_answer h (Quiet.trans (t := s.setClass a.1 { s.qclass a.1 with depth := a.2 }) (.of_eq rfl rfl rfl rfl rfl rfl rfl)
        (quiet_judgeDepth _ _))
  · exact ends_idle h

theorem ends_runlimitWrite (h : Ready s) : Ends (execRunlimitWrite k b early s) := by
  unfold execRunlimitWrite
  split
  · exact ends_answerWrite h fun a _ _ => ends_answer (u := s.setRunLimit a.1 a.2) h (.of_eq rfl rfl rfl rfl rfl rfl rfl)
  · exact ends_idle h

theorem ends_posttimeoutWrite (h : Ready s) : Ends (execPosttimeoutWrite k b early s) := by
  unfold execPosttimeoutWrite
  split
  · exact ends_answerWrite h fun a _ _ => ends_answer (u := s.setPostTimeout a) h (.of_eq rfl rfl rfl rfl rfl rfl rfl)
  · exact ends_idle h

theorem ends_lowmarkWrite (h : Ready s) : Ends (execLowmarkWrite k b early s) := by
  unfold execLowmarkWrite
  split
  · exact ends_answerWrite h fun a _ _ => ends_answer (u := s.setLowMark a) h (.of_eq rfl rfl rfl rfl rfl rfl rfl)
  · exact ends_idle h

theorem ends_writeItem (h : Ready s) : Ends (execWriteItem k b early s) := by
  unfold execWriteItem
  split
  · refine ends_answerWrite h fun a _ _ => ends_settled (u := s.writeCtrl a.1 a.2) (fun he => ?_)
      ((due_event _ [a.1] false).ahead.trans ((due_finish s a.1).ahead.trans h.ahead))
    exact (quietBut_setLink (s.finish a.1) a.1 _).settled_event (settled_finish h.sound.even h.settled a.1).1 he
  · exact ends_idle h

theorem quiet_enableCtrl {x : LinkId} {c : LinkCtrl} (hx : (s.link x).state ≠ .active) : Quiet s (s.enableCtrl x c) := by
  have hset : Quiet s (s.setCtrl x c) := quiet_setLink fun e => absurd e hx
  unfold State.enableCtrl
  simp only
  split
  · exact hset.trans (quiet_setLink fun e => by cases e)
  · exact hset

theorem ends_linkEnable (h : Ready s) : Ends (execLinkEnable k b early s) := by
  unfold execLinkEnable
  split
  swap
  · exact ends_idle h
  rename_i hb
  refine ends_answerWrite h fun ⟨x, c⟩ ha _ => ends_answer (u := s.enableCtrl x c) h (quiet_enableCtrl ?_)
  obtain ⟨-, hc⟩ := judgeWrite_ok ha
  obtain ⟨hx, -, -, -⟩ := linkCtrlCheck_ok hc
  have hst := byteStep_write hb rfl
  rw [byteStep_linkCtrl (writeStep_linkCtrl (.inl hst)) hx] at hst
  split at hst
  · rename_i hen
    rw [(h.sound.links x).disabled hen.2]
    simp
  · split at hst <;> cases hst

theorem ends_linkDisable (h : Ready s) : Ends (execLinkDisable k b early s) := by
  unfold execLinkDisable
  split
  swap
  · exact ends_idle h
  rename_i hb
  refine ends_answerWrite h fun ⟨x, c⟩ _ _ => ends_next fun he => ?_
  obtain ⟨hset, hn⟩ :=
    settled_disableCtrl (x := x) (c := c) h.settled h.ahead h.sound.even ((quiet_setPort _ k _).even he)
  have hk : (((s.finish x).setCtrl x c).port k).postDue = false := by
    refine postDue_of_tx ?_
    rw [State.setCtrl_port, (onlyAccounts_finish s x).tx, byteStep_tx hb rfl]
    simp
  exact (hn.setPort hk _).calm ((quiet_setPort _ k _).settled hset)

/-! ### Posts and in bytes -/

/-- What the verdict of a POST leaves is settled, and no full class is noted there (R100, log 30). -/
theorem verdict_settled (hs : Settled s) (k : PortId) (h : PostHeader) :
    Settled (s.verdict k h).2 ∧ (s.verdict k h).2.ahead = none := by
  rcases s.verdict_cases k h with ⟨ha, e⟩ | ⟨q, -, e | e⟩ <;> rw [e]
  · exact ⟨hs, ha⟩
  · exact ⟨hs, rfl⟩
  · exact ⟨hs, rfl⟩

theorem settled_takePost (hs : Settled s) (k : PortId) (h : PostHeader) (q : QueueId) (n : Nat) (m : RecId) :
    Settled (s.takePost k h q n m) := by
  have hposted : Settled (posted s k h q n m) := by
    intro x hx
    obtain ⟨h1, h2, h3⟩ := canReserve_eq_true.mp hx
    refine hs x (canReserve_eq_true.mpr ⟨h1, h2, grants_of_le (s := s) (t := posted s k h q n m) rfl rfl (fun p => ?_) h3⟩)
    have e : (posted s k h q n m).used p = if Party.host k = p then s.used (.host k) + n else s.used p :=
      (State.setUsed_used _ _ _ _).trans rfl
    rw [e]
    split
    · rename_i e; rw [← e]; exact Nat.le_add_right _ _
    · exact le_rfl
  rcases (posted s k h q n m).lowMarkTest_cases s.free.length with e | e <;>
    rw [show s.takePost k h q n m = _ from e]
  · exact hposted
  · exact (quiet_raiseMgr _ _).settled hposted

theorem ends_post (hs : Settled s) (h : s.ahead ≠ none → s.byteStep k b = .post) : Ends (execPost k b early s) := by
  by_cases hb : s.byteStep k b = .post
  swap
  · have ha : s.ahead = none := by
      by_contra c
      exact hb (h c)
    rw [execPost, if_neg hb]
    exact ends_next fun _ => (Quiet.refl s).calm hs ha
  rw [execPost_due hb]
  obtain ⟨hu, ha⟩ := verdict_settled hs k ((s.port k).postHeader b)
  generalize (s.verdict k ((s.port k).postHeader b)).2 = u at hu ha
  have answered (v : State) (hv : Settled v) (hav : v.ahead = none) (ph : PostPhase) (w : Option Watch) (st : Status) :
      Ends (.next (v.answerPost k b early ph w st).resume) :=
    ends_next fun _ => Quiet.calm (((quiet_setPort v k _).trans (quiet_setPort _ _ _)).trans (quiet_setPort _ _ _)) hv hav
  cases (s.verdict k ((s.port k).postHeader b)).1 with
  | refused st => exact answered u hu ha _ _ _
  | full q => exact answered u hu ha _ _ _
  | noCells n => exact answered u hu ha _ _ _
  | taken q n =>
    simp only [postOutcome]
    split
    · intro t c; cases c
    · rename_i m _
      refine answered _ (settled_takePost hu k _ q n m) ?_ _ _ _
      rcases (posted u k ((s.port k).postHeader b) q n m).lowMarkTest_cases u.free.length with e | e <;>
        rw [show u.takePost k ((s.port k).postHeader b) q n m = _ from e] <;> exact ha

theorem quiet_fillPost (s : State) (k : PortId) (b : Byte) : Quiet s (s.fillPost k b) := by
  unfold State.fillPost
  split
  · exact .refl s
  split
  · exact .refl s
  split
  · exact quiet_storePayload _ _ _
  · exact .refl s

theorem ends_postPayloadByte (h : Ready s) : Ends (execPostPayloadByte k b early s) := by
  unfold execPostPayloadByte
  split
  · exact ends_answer h ((quiet_fillPost s k b).trans (quiet_setPort _ _ _))
  · exact ends_idle h

theorem quiet_plainByte (s : State) (k : PortId) (b : Byte) (early : Bool) : Quiet s (s.plainByte k b early) := by
  unfold State.plainByte
  split
  · exact .refl s
  · split
    · exact .refl s
    · refine Quiet.trans ?_ (quiet_setPort _ _ _)
      unfold State.startRequest
      simp only
      split
      · exact ((quiet_setPort s _ _).trans (quiet_setPort _ _ _)).trans (quiet_setPort _ _ _)
      · exact quiet_setPort _ _ _
  · rename_i r _
    have hkeep : Quiet s (s.keepByte k r b) := by
      unfold State.keepByte
      split
      · exact quiet_setPort _ _ _
      · exact .refl s
    unfold State.runningByte
    simp only
    split
    · exact ((hkeep.trans (quiet_setPort _ _ _)).trans (quiet_setPort _ _ _)).trans (quiet_setPort _ _ _)
    · exact (hkeep.trans (quiet_setPort _ _ _)).trans (quiet_setPort _ _ _)
  · exact quiet_setPort _ _ _

end

end Sys2Proof.Safety
end

section
/-! SUPPORT. What each command of a link leaves of the links that may reserve (O8). -/

namespace Sys2Proof.Safety

open Sys2Proof.Machine

section
variable {s u : State} {x : LinkId} {b : Byte}

/-- A change of link `x` that leaves its state, window and reservation. -/
theorem quiet_sameLink {l : Link} (h1 : l.state = (s.link x).state) (h2 : l.reserved = (s.link x).reserved)
    (h3 : l.ctrl = (s.link x).ctrl) : Quiet s (s.setLink x l) :=
  quiet_setLink fun c => ⟨h1 ▸ c, by rw [h2, h3]; exact id⟩

/-- The entry to ACTIVE settles the link that enters (R153). -/
theorem ends_enterActive (h : Ready s) (hb : QuietBut x s u) (ha : u.ahead = s.ahead) : Ends (.next (u.enterActive x).resume) := by
  refine ends_next fun he => Noted.calm (s := u) ?_ ?_
  · exact ((Noted.refl (ha.trans h.ahead)).then ((due_setLink _ _ _).trans (due_raiseMgr _ _))).then (due_event _ _ _)
  · refine QuietBut.settled_event (QuietBut.trans ?_ (quiet_raiseMgr _ _)) h.settled he
    refine ⟨hb.owed, fun y hy hc => hb.can y hy ((quietBut_setLink u x _).can y hy hc)⟩

theorem ends_linkFault (h : Ready s) {kind : LinkFault} : Ends (.next (s.linkFault x kind).resume) :=
  ends_next fun he => calm_linkFault h.settled h.ahead h.sound.even he

/-! ### The transmitter -/

theorem quiet_settleFill (s : State) (x : LinkId) : Quiet s (s.settleFill x) := by
  have hq : Quiet s (s.setLink x { s.link x with settle := (s.link x).settle - 1, lastSymbol := some .fill }) :=
    quiet_sameLink rfl rfl rfl
  unfold State.settleFill
  simp only
  split
  · exact hq.trans (quiet_transmitterChoose _ _)
  · exact hq

theorem ends_sendFill (h : Ready s) : Ends (execSendFill x s) := by
  unfold execSendFill
  split
  swap
  · exact ends_idle h
  split
  · exact ends_idle h
  · exact ends_idle h
  · unfold State.startFill
    simp only
    split
    · exact ends_enterActive h (quietBut_setLink s x _) rfl
    · exact ends_quiet h (quiet_sameLink rfl rfl rfl)
  · split
    · exact ends_quiet h (quiet_settleFill s x)
    · split
      · exact ends_quiet h (quiet_sameLink rfl rfl rfl)
      · exact ends_idle h

theorem ends_settleEnd (h : Ready s) : Ends (execSettleEnd x s) := by
  unfold execSettleEnd
  split
  · split
    · exact ends_quiet h (quiet_settleFill s x)
    · exact ends_quiet h (quiet_transmitterChoose s x)
  · exact ends_idle h

theorem ends_sendGrant (h : Ready s) : Ends (execSendGrant x s) := by
  unfold execSendGrant
  split
  · exact ends_quiet h (quiet_sameLink rfl rfl rfl)
  · exact ends_idle h

theorem ends_sendHeaderByte (h : Ready s) : Ends (execSendHeaderByte x s) := by
  unfold execSendHeaderByte
  split
  · exact ends_quiet h (quiet_sameLink rfl rfl rfl)
  · exact ends_idle h

theorem ends_sendPayloadByte (h : Ready s) : Ends (execSendPayloadByte x s) := by
  unfold execSendPayloadByte
  split
  · split <;> exact ends_quiet h (quiet_sameLink rfl rfl rfl)
  · exact ends_idle h

theorem ends_eomSent (h : Ready s) {m : EomMoment} : Ends (execEomSent x m s) := by
  unfold execEomSent
  split
  · split
    · exact ends_quiet h (quiet_sameLink rfl rfl rfl)
    · exact ends_idle h
  · split
    · rename_i n _
      have hq : Quiet s (s.setLink x { s.link x with sending := none, lastSymbol := some .eom }) := quiet_sameLink rfl rfl rfl
      refine ends_next fun he => Noted.calm ((noted_discard (hq.ahead.trans h.ahead) n).then (due_transmitterChoose _ x)) ?_
      have hq2 := quiet_transmitterChoose ((s.setLink x { s.link x with sending := none, lastSymbol := some .eom }).discard n) x
      exact hq2.settled (settled_discard (hq.settled h.settled) (hq2.even he))
    · exact ends_idle h

theorem ends_sendAbm (h : Ready s) : Ends (execSendAbm x s) := by
  unfold execSendAbm
  split
  · exact ends_quiet h
      (Quiet.trans (t := s.setLink x { s.link x with abmDue := false, lastSymbol := some .abm }) (quiet_sameLink rfl rfl rfl)
        (quiet_transmitterChoose _ _))
  · exact ends_idle h

/-! ### The receiver -/

theorem ends_receiveFill (h : Ready s) : Ends (execReceiveFill x s) := by
  unfold execReceiveFill
  split
  · exact ends_idle h
  · exact ends_idle h
  · simp only
    split
    · exact ends_enterActive h (quietBut_setLink s x _) rfl
    · exact ends_quiet h (quiet_sameLink rfl rfl rfl)
  · exact ends_quiet h (quiet_sameLink rfl rfl rfl)

theorem ends_receiveGrant (h : Ready s) : Ends (execReceiveGrant x s) := by
  unfold execReceiveGrant
  split
  · exact ends_idle h
  · exact ends_idle h
  · exact ends_linkFault h
  · split
    · exact ends_linkFault h
    · exact ends_quiet h (quiet_sameLink rfl rfl rfl)

theorem ends_headerComplete (h : Ready s) {hdr : List Byte} : Ends (s.headerComplete x hdr) := by
  unfold State.headerComplete
  simp only
  split
  · exact ends_linkFault h
  split
  · intro t c; cases c
  · rename_i n _
    have hq : Quiet s (framed s x hdr n) := by
      rw [framed_rest]
      exact .of_eq rfl rfl rfl rfl rfl rfl rfl
    exact ends_quiet h (hq.trans (quiet_sameLink rfl rfl rfl))

theorem ends_receiveHeaderByte (h : Ready s) : Ends (execReceiveHeaderByte x b s) := by
  unfold execReceiveHeaderByte
  split
  · exact ends_idle h
  · exact ends_idle h
  · exact ends_linkFault h
  · split
    · exact ends_idle h
    split
    · exact ends_headerComplete h
    · exact ends_quiet h (quiet_sameLink rfl rfl rfl)

theorem ends_headerStep (h : Ready s) : Ends (execHeaderStep x b s) := by
  unfold execHeaderStep
  split
  · exact ends_idle h
  · exact ends_idle h
  · exact ends_linkFault h
  · split
    · exact ends_headerComplete h
    · exact ends_idle h

theorem ready_finish (h : Ready s) (x : LinkId) : Ready (s.finish x) :=
  ⟨Does.sound (.quiet (moves_finish s x)) h.sound, (settled_finish h.sound.even h.settled x).1,
    (due_finish s x).ahead.trans h.ahead⟩

theorem ends_receivePayload (h : Ready s) {n : RecId} {r : Record} : Ends (.next (s.receivePayload x n r b).resume) := by
  have hf := ready_finish h x
  unfold State.receivePayload
  generalize s.finish x = v at hf
  simp only
  split
  · exact ends_linkFault hf
  split
  · split
    · exact ends_linkFault hf
    · rename_i c rest hres
      have hb : QuietBut x v (((v.heard x).takeOne x n r c rest).storePayload n b) := by
        refine QuietBut.trans (t := (v.heard x).takeOne x n r c rest) ?_ (quiet_storePayload _ _ _)
        refine QuietBut.trans (t := (v.heard x).setLink x { (v.heard x).link x with reserved := rest }) ?_
          (.of_eq rfl rfl rfl rfl rfl rfl rfl)
        rw [State.heard, State.setLink_setLink]
        exact quietBut_setLink v x _
      refine ends_next fun he => ⟨hb.settled_event hf.settled he, fun c' => absurd ?_ c'⟩
      refine (due_event _ [x] false).ahead.trans ?_
      rw [storePayload_rest]
      exact hf.ahead
  · exact ends_quiet hf (Quiet.trans (t := v.heard x) (quiet_sameLink rfl rfl rfl) (quiet_storePayload _ _ _))

theorem ends_receivePayloadByte (h : Ready s) : Ends (execReceivePayloadByte x b s) := by
  unfold execReceivePayloadByte
  split
  · exact ends_idle h
  · exact ends_idle h
  · exact ends_linkFault h
  · split
    · split
      · exact ends_idle h
      · exact ends_receivePayload h
    · exact ends_idle h

theorem quiet_endMessage (s : State) (x : LinkId) : Quiet s (s.endMessage x) := quiet_sameLink rfl rfl rfl

/-- The end of an inbound message whose record is discarded (R176, R177). -/
theorem ends_endDiscard (h : Ready s) (n : RecId) (e : MgrEvent) :
    Ends (.next (((s.endMessage x).discard n).raiseMgr e).resume) := by
  have hq := quiet_endMessage s x
  refine ends_next fun he => Noted.calm ((noted_discard (hq.ahead.trans h.ahead) n).then (due_raiseMgr _ e)) ?_
  exact (quiet_raiseMgr _ e).settled (settled_discard (hq.settled h.settled) ((quiet_raiseMgr _ e).even he))

theorem ends_receiveEom (h : Ready s) : Ends (execReceiveEom x s) := by
  unfold execReceiveEom
  split
  · exact ends_idle h
  · exact ends_idle h
  · exact ends_linkFault h
  split
  · exact ends_linkFault h
  split
  · exact ends_linkFault h
  split
  · exact ends_quiet h (quiet_endMessage s x)
  · unfold State.eomOutcome
    split
    · split
      · exact ends_endDiscard h _ _
      · exact ends_quiet h ((quiet_endMessage s x).trans (quiet_commit _ _))
      · exact ends_quiet h ((quiet_endMessage s x).trans (quiet_commit _ _))
    · exact ends_endDiscard h _ _

theorem ends_receiveAbm (h : Ready s) : Ends (execReceiveAbm x s) := by
  unfold execReceiveAbm
  split
  · exact ends_idle h
  · exact ends_idle h
  · exact ends_linkFault h
  split
  · exact ends_linkFault h
  split
  · exact ends_quiet h ((quiet_endMessage s x).trans (quiet_raiseMgr _ _))
  · exact ends_endDiscard h _ _

theorem ends_symbolError (h : Ready s) {w : SymbolWord} : Ends (execSymbolError x w s) := by
  unfold execSymbolError
  split
  · exact ends_linkFault h
  · exact ends_idle h

theorem ends_silence (h : Ready s) : Ends (execSilence x s) := by
  unfold execSilence
  split
  · exact ends_linkFault h
  · exact ends_idle h

theorem ends_holdEnd (h : Ready s) : Ends (execHoldEnd x s) := by
  unfold execHoldEnd
  split
  · refine ends_quiet h (quiet_setLink fun c => ?_)
    unfold Link.afterHold at c
    split at c <;> cases c
  · exact ends_idle h

end

/-! ### Every command -/

/-- POWER_ON_RESET leaves no link ACTIVE, and no marks. -/
theorem ends_powerOnReset (s : State) : Ends (execPowerOnReset s) := by
  intro t h _
  cases h
  refine ⟨fun x hx => ?_, fun c => absurd rfl c, fun c => absurd rfl c⟩
  simp [State.link, State.reset, vget_replicate, Link.reset] at hx

/-- The in byte that completes, by the step it is; a POST may find a full class noted. -/
theorem ends_inByteCompletion {s : State} {k : PortId} {b : Byte} {early : Bool} (hs : Settled s)
    (h : s.byteStep k b ≠ .post → Ready s) : Ends (execInByteCompletion k b early s) := by
  unfold execInByteCompletion
  cases hb : s.byteStep k b with
  | post => exact ends_post hs fun _ => hb
  | ignored => exact ends_idle (h (by simp [hb]))
  | plain => exact ends_quiet (h (by simp [hb])) (quiet_plainByte s k b early)
  | undefinedCode => exact ends_undefinedRequestCode (h (by simp [hb]))
  | nop => exact ends_nop (h (by simp [hb]))
  | payload => exact ends_postPayloadByte (h (by simp [hb]))
  | fetch => exact ends_fetch (h (by simp [hb]))
  | fetchUq => exact ends_fetchUq (h (by simp [hb]))
  | release => exact ends_release (h (by simp [hb]))
  | events => exact ends_events (h (by simp [hb]))
  | mask => exact ends_mask (h (by simp [hb]))
  | managerMask => exact ends_managerMaskWrite (h (by simp [hb]))
  | query => exact ends_query (h (by simp [hb]))
  | claim => exact ends_claim (h (by simp [hb]))
  | resign => exact ends_resign (h (by simp [hb]))
  | portReset => exact ends_portReset (h (by simp [hb]))
  | readItem => exact ends_readItem (h (by simp [hb]))
  | writeItem => exact ends_writeItem (h (by simp [hb]))
  | routeWrite => exact ends_routeWrite (h (by simp [hb]))
  | portaddrWrite => exact ends_portaddrWrite (h (by simp [hb]))
  | guaranteeWrite => exact ends_guaranteeWrite (h (by simp [hb]))
  | limitWrite => exact ends_limitWrite (h (by simp [hb]))
  | depthWrite => exact ends_depthWrite (h (by simp [hb]))
  | runlimitWrite => exact ends_runlimitWrite (h (by simp [hb]))
  | posttimeoutWrite => exact ends_posttimeoutWrite (h (by simp [hb]))
  | lowmarkWrite => exact ends_lowmarkWrite (h (by simp [hb]))
  | linkEnable => exact ends_linkEnable (h (by simp [hb]))
  | linkDisable => exact ends_linkDisable (h (by simp [hb]))
  | fence => exact ends_fence (h (by simp [hb]))
  | unfence => exact ends_unfence (h (by simp [hb]))
  | purge => exact ends_purge (h (by simp [hb]))
  | drain => exact ends_drain (h (by simp [hb]))
  | restart => exact ends_restart (h (by simp [hb]))

/-- The command is the POST whose in byte 5 is due. -/
def TakesPost (s : State) : Instr → Prop
  | .post k b _ => s.byteStep k b = .post
  | .inByteCompletion k b _ => s.byteStep k b = .post
  | _ => False

theorem exec_ends {s : State} {c : Instr} (hs : Settled s) (h : ¬TakesPost s c → Ready s) : Ends (exec c s) := by
  cases c with
  | powerOnReset => exact ends_powerOnReset s
  | post k b early =>
    refine ends_post hs fun c => ?_
    by_contra hb
    exact c (h hb).ahead
  | inByteCompletion k b early => exact ends_inByteCompletion hs h
  | selectFall k => exact ends_selectFall (h id)
  | selectRise k => exact ends_selectRise (h id)
  | undefinedRequestCode k code early => exact ends_undefinedRequestCode (h id)
  | nop k early => exact ends_nop (h id)
  | postPayloadByte k b early => exact ends_postPayloadByte (h id)
  | postTimeout k => exact ends_postTimeout (h id)
  | fetch k b early => exact ends_fetch (h id)
  | fetchUq k b early => exact ends_fetchUq (h id)
  | release k early => exact ends_release (h id)
  | events k early => exact ends_events (h id)
  | mask k b early => exact ends_mask (h id)
  | managerMaskWrite k b early => exact ends_managerMaskWrite (h id)
  | query k early => exact ends_query (h id)
  | claim k early => exact ends_claim (h id)
  | resign k early => exact ends_resign (h id)
  | portReset k early => exact ends_portReset (h id)
  | readItem k b early => exact ends_readItem (h id)
  | writeItem k b early => exact ends_writeItem (h id)
  | routeWrite k b early => exact ends_routeWrite (h id)
  | portaddrWrite k b early => exact ends_portaddrWrite (h id)
  | guaranteeWrite k b early => exact ends_guaranteeWrite (h id)
  | limitWrite k b early => exact ends_limitWrite (h id)
  | depthWrite k b early => exact ends_depthWrite (h id)
  | runlimitWrite k b early => exact ends_runlimitWrite (h id)
  | posttimeoutWrite k b early => exact ends_posttimeoutWrite (h id)
  | lowmarkWrite k b early => exact ends_lowmarkWrite (h id)
  | linkEnable k b early => exact ends_linkEnable (h id)
  | linkDisable k b early => exact ends_linkDisable (h id)
  | fence k b early => exact ends_fence (h id)
  | unfence k b early => exact ends_unfence (h id)
  | purge k b early => exact ends_purge (h id)
  | drain k b early => exact ends_drain (h id)
  | restart k early => exact ends_restart (h id)
  | sendFill x => exact ends_sendFill (h id)
  | sendGrant x => exact ends_sendGrant (h id)
  | sendHeaderByte x => exact ends_sendHeaderByte (h id)
  | sendPayloadByte x => exact ends_sendPayloadByte (h id)
  | eomSent x m => exact ends_eomSent (h id)
  | sendAbm x => exact ends_sendAbm (h id)
  | receiveFill x => exact ends_receiveFill (h id)
  | receiveGrant x => exact ends_receiveGrant (h id)
  | receiveHeaderByte x b => exact ends_receiveHeaderByte (h id)
  | headerStep x b => exact ends_headerStep (h id)
  | receivePayloadByte x b => exact ends_receivePayloadByte (h id)
  | receiveEom x => exact ends_receiveEom (h id)
  | receiveAbm x => exact ends_receiveAbm (h id)
  | symbolError x w => exact ends_symbolError (h id)
  | silence x => exact ends_silence (h id)
  | settleEnd x => exact ends_settleEnd (h id)
  | holdEnd x => exact ends_holdEnd (h id)

/-- A POST due at a port is the step of its in byte. -/
theorem byteStep_of_postDue {s : State} {k : PortId} (h : (s.port k).postDue = true) (b : Byte) : s.byteStep k b = .post := by
  simp only [Port.postDue, Bool.and_eq_true, beq_iff_eq] at h
  obtain ⟨⟨h1, h2⟩, h3⟩ := h
  simp [State.byteStep, h1, State.requestStep, h2, h3]

/-- Settles O8, command by command: what does not return or take cells gives no link a reason to reserve, and every return and
every change of the accounts is followed by an event for the links that it concerns. -/
theorem reservesKept : Obligations.ReservesKept := by
  intro s t hs hd h
  have hsound := soundKept s t hs h
  cases hp : s.pending with
  | nil =>
    simp only [step, hp] at h
    cases h
    exact hd
  | cons c rest =>
    simp only [step, hp] at h
    have hset : Settled { s with pending := rest } := fun x hx => by
      obtain ⟨h1, h2, h3⟩ := canReserve_eq_true.mp hx
      exact hd.done x h1 h2 h3
    refine exec_ends hset (fun hc => ⟨hs.setPending rest, hset, ?_⟩) t h hsound.even
    by_contra ha
    obtain ⟨k, b, early, rest', hw, hdue⟩ := waitingPost_ne_none.mp (hd.waits.2 ha)
    rw [hp] at hw
    rcases hw with e | e <;> cases e <;> exact hc (byteStep_of_postDue (s := { s with pending := rest }) hdue b)

end Sys2Proof.Safety
end

section
/-! SUPPORT. What an in byte is at each state of its transaction, and what the requests that are taken at in byte 0 answer. -/

namespace Sys2Proof.Safety

open Sys2Proof.Machine

section
variable {s : State} {k : PortId} {b : Byte} {early : Bool}

/-! ### The step of an in byte -/

theorem byteStep_idle (ht : (s.port k).tx = .idle) (b : Byte) : s.byteStep k b = .ignored := by
  unfold State.byteStep; rw [ht]

theorem byteStep_opened (ht : (s.port k).tx = .opened) (b : Byte) : s.byteStep k b = codeStep b := by
  unfold State.byteStep; rw [ht]

theorem byteStep_running {r : Request} (ht : (s.port k).tx = .running r) (b : Byte) :
    s.byteStep k b = s.requestStep (s.port k) b r := by
  unfold State.byteStep; rw [ht]

theorem byteStep_ended (ht : (s.port k).tx = .ended) (b : Byte) : s.byteStep k b = .plain := by
  unfold State.byteStep; rw [ht]

/-- An in byte that is no other step is IN_BYTE_COMPLETION's own. -/
theorem exec_plain (h : s.byteStep k b = .plain) :
    exec (.inByteCompletion k b early) s = .next (s.plainByte k b early).resume := by
  simp only [exec, execInByteCompletion, h]

/-- An in byte of a running request that is not taken there. -/
theorem exec_runningByte {r : Request} (ht : (s.port k).tx = .running r) (h : s.requestStep (s.port k) b r = .plain) :
    exec (.inByteCompletion k b early) s = .next (s.runningByte k r b early).resume := by
  rw [exec_plain ((byteStep_running ht b).trans h), State.plainByte, ht]

/-- The post timer as it starts (R88). -/
def postTimer (s : State) : Option Nat := if s.postTimeout = 0 then none else some s.postTimeout

/-- An in byte that a running request other than POST does not take and does not keep: the next sampled reply byte is formed. -/
theorem runningByte_reply {r : Request} (hr : r ≠ .post) (hf : r ≠ .fetch) (hk : (s.port k).keeps r = false) :
    s.runningByte k r b early =
      s.setPort k
        (({ s.port k with replyRest := (s.port k).replyRest.tail } : Port).shift early ((s.port k).replyRest.headD 0x00)) := by
  have hout : s.nextOut k r = (s.port k).replyRest.headD 0x00 := by
    cases r with
    | fetch => exact absurd rfl hf
    | _ => rfl
  simp [State.runningByte, State.keepByte, hk, hr, hout, State.setReply, State.shift]

theorem answered_setPort (s : State) (k : PortId) (p : Port) (early : Bool) (code : Byte) :
    answered k early code (s.setPort k p) = .next (s.setPort k (p.shift early code)).resume := by
  simp [answered]

/-- With no sampled reply byte left, 0x00 is formed and nothing else changes. -/
theorem runningByte_empty {r : Request} (hr : r ≠ .post) (hf : r ≠ .fetch) (hk : (s.port k).keeps r = false)
    (he : (s.port k).replyRest = []) : s.runningByte k r b early = s.setPort k ((s.port k).shift early 0x00) := by
  rw [runningByte_reply hr hf hk, he]
  congr 2
  generalize s.port k = p at he
  cases p
  cases he
  rfl

/-! ### Requests taken at in byte 0 -/

theorem exec_undefined (ht : (s.port k).tx = .opened) (hc : codeStep b = .undefinedCode) :
    exec (.undefinedRequestCode k b early) s =
      answered k early Status.unknown.code
        ((s.raiseHost k .protocol).setPort k ((s.raiseHost k .protocol).port k).endTx) :=
  if_pos ((byteStep_opened ht b).trans hc)

theorem exec_nop (ht : (s.port k).tx = .opened) :
    exec (.nop k early) s = answered k early 0x00 (s.setTx k (.running .nop)) :=
  if_pos (byteStep_opened ht 0x00)

theorem exec_release (ht : (s.port k).tx = .opened) :
    exec (.release k early) s =
      answered k early ((s.setTx k (.running .release)).releaseLoan k).2.code
        ((s.setTx k (.running .release)).releaseLoan k).1 :=
  if_pos (byteStep_opened ht 0x21)

theorem exec_events (ht : (s.port k).tx = .opened) :
    exec (.events k early) s =
      answered k early (s.takeSnapshot k).host
        (s.setPort k
          { s.port k with
            tx := .running .events, snapshot := some (s.takeSnapshot k), replyRest := [(s.takeSnapshot k).mgrByte] }) :=
  if_pos (byteStep_opened ht 0x30)

theorem exec_query (ht : (s.port k).tx = .opened) :
    exec (.query k early) s =
      answered k early ((s.querySnapshot k).headD 0x00)
        ((s.setTx k (.running .query)).setReply k (s.querySnapshot k).tail) :=
  if_pos (byteStep_opened ht 0x40)

theorem exec_claim (ht : (s.port k).tx = .opened) :
    exec (.claim k early) s =
      answered k early ((s.setTx k (.running .claim)).claimRole k).2.code ((s.setTx k (.running .claim)).claimRole k).1 :=
  if_pos (byteStep_opened ht 0x50)

theorem exec_resign (ht : (s.port k).tx = .opened) :
    exec (.resign k early) s =
      answered k early ((s.setTx k (.running .resign)).resignRole k).2.code ((s.setTx k (.running .resign)).resignRole k).1 :=
  if_pos (byteStep_opened ht 0x51)

theorem exec_portReset (ht : (s.port k).tx = .opened) :
    exec (.portReset k early) s = answered k early Status.done.code ((s.setTx k (.running .portReset)).portReset k) :=
  if_pos (byteStep_opened ht 0x52)

end

/-! ### The transaction -/

/-- The code is none of the seventeen of the table of 5.3. -/
theorem codeStep_undefined {code : Byte}
    (h : code ∉ [0x00, 0x10, 0x20, 0x21, 0x30, 0x31, 0x40, 0x50, 0x51, 0x52, 0x60, 0x61, 0x70, 0x71, 0x72, 0x73, 0x7F]) :
    codeStep code = .undefinedCode := by
  revert code
  decide +kernel

/-- Settles O13: the code decodes to no request; a NOP's later bytes form the empty reply. -/
theorem undefinedCodeAndNop : Obligations.UndefinedCodeAndNop := by
  intro k code early s
  refine ⟨fun ht hc => ?_, fun ht => ?_, fun ht hr => ?_⟩
  · rw [exec_undefined ht (codeStep_undefined hc), answered_setPort]
    simp only [State.raiseHost, State.setPort_setPort, State.setPort_port, if_true]
    rfl
  · rw [exec_nop ht, State.setTx, answered_setPort]
  · rw [exec_runningByte ht rfl, runningByte_empty (by simp) (by simp) rfl hr]

/-- The six indications of a summary byte, and its two zero bits (11.3). -/
theorem byteOf_bits (b7 b6 b5 b4 b3 b2 : Bool) :
    (byteOf b7 b6 b5 b4 b3 b2).getLsbD 7 = b7 ∧ (byteOf b7 b6 b5 b4 b3 b2).getLsbD 6 = b6 ∧
      (byteOf b7 b6 b5 b4 b3 b2).getLsbD 5 = b5 ∧ (byteOf b7 b6 b5 b4 b3 b2).getLsbD 4 = b4 ∧
      (byteOf b7 b6 b5 b4 b3 b2).getLsbD 3 = b3 ∧ (byteOf b7 b6 b5 b4 b3 b2).getLsbD 2 = b2 ∧
      (byteOf b7 b6 b5 b4 b3 b2).getLsbD 1 = false ∧ (byteOf b7 b6 b5 b4 b3 b2).getLsbD 0 = false := by
  revert b7 b6 b5 b4 b3 b2
  decide

/-- Settles O6: the fall opens the transaction, and each bit of the summary byte is its indication. -/
theorem selectFallOpens : Obligations.SelectFallOpens := by
  intro k s
  obtain ⟨h7, h6, h5, h4, h3, h2, h1, h0⟩ :=
    byteOf_bits (s.attention k) (!(s.qclass ⟨.host k, .express⟩).recs.isEmpty) (!(s.qclass ⟨.host k, .bulk⟩).recs.isEmpty)
      (s.port k).loan.isSome (s.port k).fenced (s.manager == some k)
  refine ⟨fun hs => if_pos hs, h7, ?_, ?_, ?_, h3, ?_, h1, h0, ?_⟩
  · rw [State.summary, h6]; simp
  · rw [State.summary, h5]; simp
  · rw [State.summary, h4, Option.isSome_iff_ne_none]
  · rw [State.summary, h2]; simp
  · simp [State.attention, State.port]

/-- The rise of select, with the closing action of its transaction (R85). -/
theorem exec_selectRise {s : State} {k : PortId} (hs : (s.port k).selLow = true) :
    exec (.selectRise k) s =
      .next ((s.closingAction k).setPort k ((s.closingAction k).port k).closeTx).resume :=
  if_pos hs

/-- Settles O7: no closing action, or that of a POST in FILLING. -/
theorem selectRiseCloses : Obligations.SelectRiseCloses := by
  refine ⟨fun k s hs hp hf he => ?_, fun _ => rfl, fun k n r s hs ht hph hn hr => ?_⟩
  · have hc : s.closingAction k = s := by
      unfold State.closingAction
      split
      · rename_i ht; exact if_neg fun hph => hp ⟨ht, hph⟩
      · rename_i ht; exact absurd ht hf
      · rename_i ht; exact absurd ht he
      · rfl
    rw [exec_selectRise hs, hc]
    rfl
  · have hc : s.closingAction k = if r.filled = r.length then s.commit n else (s.discard n).raiseHost k .postAborted := by
      simp only [State.closingAction, ht, if_pos hph, State.closePost, hn, hr, State.abortPost]
    rw [exec_selectRise hs, hc]

theorem fullReadout_iff {p : Port} {len : Nat} :
    p.fullReadout len = true ↔ ∀ j, j < len → 10 + j < p.inCount ∧ 10 + j ∉ p.spoilt := by
  simp [Port.fullReadout, Port.fullOut]

/-- Settles O11: the closing action of a FETCH. -/
theorem selectRiseAutoRelease : Obligations.SelectRiseAutoRelease := by
  intro k s hs ht
  have hclose : s.closingAction k = s.closeFetch k := by simp only [State.closingAction, ht]
  rw [exec_selectRise hs, hclose]
  refine ⟨fun l r hl hro hr => ?_, fun h => ?_⟩
  · have hread : s.readoutRecord k = some r := by simp [State.readoutRecord, hl, hro, hr]
    have hc : s.closeFetch k =
        if (s.port k).autoRelease = true ∧ (s.port k).fullReadout r.length = true then s.discard l.recId else s := by
      simp only [State.closeFetch, hl, hread]
    simp only [fullReadout_iff] at hc
    exact ⟨fun h => by rw [hc, if_pos h], fun h => by rw [hc, if_neg h]⟩
  · have hc : s.closeFetch k = s := by
      rcases h with h | h | ⟨l, n, hl, hn, hne⟩
      · simp [State.closeFetch, State.readoutRecord, h]
      · simp [State.closeFetch, h]
      · simp [State.closeFetch, State.readoutRecord, hl, hn, hne]
    rw [hc]

/-- The close of an EVENTS transaction with snapshot `sn` (R124). -/
theorem closeEvents_close {s : State} {k : PortId} {sn : Snapshot} (hsn : (s.port k).snapshot = some sn) :
    (s.closeEvents k).setPort k ((s.closeEvents k).port k).closeTx =
      if (s.port k).fullOut 1 = true ∧ (s.port k).fullOut 2 = true then
        { s.setPort k (clearedPort (s.port k) sn) with mgrSet := clearedMgr s sn }
      else s.setPort k (s.port k).closeTx := by
  simp only [State.closeEvents, hsn]
  split
  · cases hm : sn.mgr <;>
      simp only [State.setPort, State.port, vget_vset, if_true, vset_vset, clearedMgr, clearedPort, hm] <;> rfl
  · rfl

/-- Settles O12: the closing action of EVENTS. -/
theorem selectRiseClearsEvents : Obligations.SelectRiseClearsEvents := by
  intro k sn s hs ht hsn
  have hclose : s.closingAction k = s.closeEvents k := by simp only [State.closingAction, ht]
  rw [exec_selectRise hs, hclose]
  have hfull : ((s.port k).fullOut 1 = true ∧ (s.port k).fullOut 2 = true) ↔
      2 < (s.port k).inCount ∧ 1 ∉ (s.port k).spoilt ∧ 2 ∉ (s.port k).spoilt := by
    simp only [Port.fullOut, Bool.and_eq_true, decide_eq_true_eq, Bool.not_eq_true', List.contains_eq_mem, decide_eq_false_iff_not]
    constructor
    · rintro ⟨⟨-, h1⟩, h2, h3⟩; exact ⟨h2, h1, h3⟩
    · rintro ⟨h2, h1, h3⟩; exact ⟨⟨by omega, h1⟩, h2, h3⟩
  rw [closeEvents_close hsn]
  by_cases h : 2 < (s.port k).inCount ∧ 1 ∉ (s.port k).spoilt ∧ 2 ∉ (s.port k).spoilt
  · rw [if_pos (hfull.mpr h)]
    have hport (j : PortId) :
        State.port { s.setPort k (clearedPort (s.port k) sn) with mgrSet := clearedMgr s sn } j =
          if k = j then clearedPort (s.port k) sn else s.port j := State.setPort_port s k _ j
    refine ⟨_, rfl, fun j hj => (hport j).trans (if_neg (Ne.symm hj)), ?_, fun _ => ⟨?_, rfl⟩, fun c => absurd h c, rfl⟩
    · rw [hport, if_pos rfl]; rfl
    · rw [hport, if_pos rfl]; rfl
  · rw [if_neg fun c => h (hfull.mp c)]
    refine ⟨_, rfl, fun j hj => by simp [Ne.symm hj], by simp [Port.closeTx], fun c => absurd c h, fun _ => ?_, rfl⟩
    simp [Port.closeTx]

/-- Settles O14: the phase says whether a record is discarded. -/
theorem postTimeoutEnds : Obligations.PostTimeoutEnds := by
  refine ⟨fun _ => rfl, fun k s => ⟨fun ht hph => ?_, fun n ht hph hn => ?_, fun ht => if_neg (by simp [ht])⟩⟩
  all_goals
    refine (if_pos (Option.isSome_iff_ne_none.mpr ht)).trans ?_
  · simp only [if_neg hph]
    rfl
  · simp only [if_pos hph, State.abortPost, hn]

/-- Settles O15: the snapshot is formed whole, and its bytes are taken from what is kept of it one by one. -/
theorem queryReplies : Obligations.QueryReplies := by
  intro k early s
  have later (b : Byte) (ht : (s.port k).tx = .running .query) :
      exec (.inByteCompletion k b early) s =
        .next
          (s.setPort k
            (({ s.port k with replyRest := (s.port k).replyRest.tail } : Port).shift early
              ((s.port k).replyRest.headD 0x00))).resume := by
    rw [exec_runningByte ht rfl, runningByte_reply (by simp) (by simp) rfl]
  refine ⟨fun ht => ?_, fun b out rest ht hr => ?_, fun b ht hr => ?_⟩
  · have hloan : s.loanId k =
        (match (s.port k).loan with
          | none => 0xFF
          | some l =>
            match l.queue with
            | .inbox .express => BitVec.ofNat 8 (2 * k.val)
            | .inbox .bulk => BitVec.ofNat 8 (2 * k.val + 1)
            | .uq => 12) := by
      unfold State.loanId Loan.queueNum
      cases (s.port k).loan with
      | none => rfl
      | some l =>
        simp only
        cases l.queue with
        | uq => rfl
        | inbox c => cases c <;> rfl
    rw [exec_query ht, State.setTx, State.setReply, State.setPort_setPort, answered_setPort]
    simp only [State.querySnapshot, hloan, State.managerId, LinkState.code]
    simp <;> rfl
  · rw [later b ht, hr]; rfl
  · rw [exec_runningByte ht rfl, runningByte_empty (by simp) (by simp) rfl hr]

end Sys2Proof.Safety
end

section
/-! SUPPORT. In bytes that take nothing, PORT RESET, RELEASE, and the role. -/

namespace Sys2Proof.Safety

open Sys2Proof.Machine

section
variable {s : State} {k : PortId} {b : Byte} {early : Bool}

/-- In byte 0 of a request that is taken later starts it (R84). -/
theorem exec_starts {r : Request} (ht : (s.port k).tx = .opened) (hc : codeStep b = .plain) (hd : decodeRequest b = some r)
    (hr : r ≠ .post) :
    exec (.inByteCompletion k b early) s =
      .next (s.setPort k (({ s.port k with tx := .running r } : Port).shift early 0x00)).resume := by
  rw [exec_plain ((byteStep_opened ht b).trans hc)]
  simp [State.plainByte, ht, hd, State.startRequest, hr, State.setTx, State.shift]

/-- In a running POST that is not taken at this byte, the byte restarts the timer, and in HEADER it is kept (R88, R99). -/
theorem exec_postByte (ht : (s.port k).tx = .running .post) (hp : s.requestStep (s.port k) b .post = .plain)
    (he : (s.port k).replyRest = []) :
    exec (.inByteCompletion k b early) s =
      .next
        (s.setPort k
          (({ s.port k with
                inBytes := if (s.port k).phase = .header then (s.port k).inBytes ++ [b] else (s.port k).inBytes
                timer := postTimer s } : Port).shift early 0x00)).resume := by
  rw [exec_runningByte ht hp]
  have hk : (s.port k).keeps .post = ((s.port k).phase == .header) := rfl
  by_cases hph : (s.port k).phase = .header <;>
    simp [State.runningByte, State.keepByte, hk, hph, State.startTimer, State.setReply, State.shift, State.nextOut, he,
      postTimer, Port.shift]

/-- A request that keeps this byte and no reply byte to form. -/
theorem exec_kept {r : Request} (ht : (s.port k).tx = .running r) (hp : s.requestStep (s.port k) b r = .plain)
    (hr : r ≠ .post) (hf : r ≠ .fetch) (hk : (s.port k).keeps r = true) (he : (s.port k).replyRest = []) :
    exec (.inByteCompletion k b early) s =
      .next (s.setPort k (({ s.port k with inBytes := (s.port k).inBytes ++ [b] } : Port).shift early 0x00)).resume := by
  have hout : s.nextOut k r = 0x00 := by
    have h : s.nextOut k r = (s.port k).replyRest.headD 0x00 := by
      cases r with
      | fetch => exact absurd rfl hf
      | _ => rfl
    rw [h, he]; rfl
  rw [exec_runningByte ht hp]
  simp [State.runningByte, State.keepByte, hk, hr, hout, State.setReply, State.shift, Port.shift, he]

/-- After its last taken byte a request takes and keeps none (5.3). -/
theorem untaken {r : Request} (hr : r ≠ .post) (h : lastTaken r < (s.port k).inCount) :
    s.requestStep (s.port k) b r = .plain ∧ (s.port k).keeps r = false := by
  cases r with
  | post => exact absurd rfl hr
  | fetch => exact ⟨if_neg (by simp only [lastTaken] at h; omega), rfl⟩
  | mask =>
    simp only [lastTaken] at h
    exact ⟨(if_neg (by omega)).trans (if_neg (by omega)), rfl⟩
  | readItem =>
    simp only [lastTaken] at h
    exact ⟨if_neg (by omega), by simp only [Port.keeps, beq_eq_false_iff_ne]; omega⟩
  | writeItem =>
    simp only [lastTaken] at h
    exact ⟨if_neg (by omega), by simp only [Port.keeps, decide_eq_false_iff_not]; omega⟩
  | fence => exact ⟨if_neg (by simp only [lastTaken] at h; omega), rfl⟩
  | unfence => exact ⟨if_neg (by simp only [lastTaken] at h; omega), rfl⟩
  | purge => exact ⟨if_neg (by simp only [lastTaken] at h; omega), rfl⟩
  | drain => exact ⟨if_neg (by simp only [lastTaken] at h; omega), rfl⟩
  | nop | release | events | query | claim | resign | portReset | restart => exact ⟨rfl, rfl⟩

end

/-- Settles O17: each clause is the step of its byte. -/
theorem inByteTaken : Obligations.InByteTaken := by
  refine ⟨fun p next => ⟨rfl, rfl⟩, fun k b early s => ⟨fun ht => ?_, fun ht => ?_, fun r ht hb => ?_, fun ht hb => ?_,
    fun ht hph hc he => ?_, fun h he => ?_, fun r ht hr hf hl => ?_, fun ht hph he => ?_⟩⟩
  · simp only [exec, execInByteCompletion, byteStep_idle ht]
  · rw [exec_plain (byteStep_ended ht b), State.plainByte, ht]
    rfl
  · simp only [List.mem_cons, Prod.mk.injEq, List.not_mem_nil, or_false] at hb
    rcases hb with ⟨rfl, rfl⟩ | ⟨rfl, rfl⟩ | ⟨rfl, rfl⟩ | ⟨rfl, rfl⟩ | ⟨rfl, rfl⟩ |
      ⟨rfl, rfl⟩ | ⟨rfl, rfl⟩ | ⟨rfl, rfl⟩ <;>
      exact exec_starts ht rfl rfl (by decide)
  · subst hb
    rw [exec_plain (byteStep_opened ht _)]
    simp [State.plainByte, ht, decodeRequest, State.startRequest, State.setTx, State.startTimer, State.shift]
  · have hp : s.requestStep (s.port k) b .post = .plain := by
      simp only [State.requestStep, hph]
      exact if_neg (by omega)
    rw [exec_postByte ht hp he, if_pos hph]
    rfl
  · rcases h with ⟨ht, hc⟩ | ⟨ht, hc, hc'⟩
    · exact exec_kept ht (if_neg (by omega)) (by simp) (by simp) (by simp [Port.keeps, hc]) he
    · exact exec_kept ht (if_neg (by omega)) (by simp) (by simp) (by simp [Port.keeps, hc, hc']) he
  · obtain ⟨h1, h2⟩ := untaken (s := s) (k := k) (b := b) hr hl
    rw [exec_runningByte ht h1, runningByte_reply hr hf h2]
  · have hp : s.requestStep (s.port k) b .post = .plain := by simp only [State.requestStep, hph]
    rw [exec_postByte ht hp he, if_neg (by rw [hph]; simp)]
    rfl

/-- Settles O18, by the step that the byte is. -/
theorem inByteRoutes : Obligations.InByteRoutes := by
  intro k b early c s h
  have e : exec (.inByteCompletion k b early) s = execInByteCompletion k b early s := rfl
  rw [e, execInByteCompletion]
  cases hb : s.byteStep k b <;> rw [hb] at h <;> cases h <;> rfl

/-! ### Loans cleared without removal -/

/-- A port without its loan (R13). -/
def unlent (p : Port) : Port := { p with loan := none, readout := if p.loan = none then p.readout else none }

theorem unlent_of_none {p : Port} (h : p.loan = none) : unlent p = p := by
  cases p
  cases h
  rfl

/-- Clearing a loan touches the record lent and the port (R13). -/
theorem clearLoan_rest (s : State) (k : PortId) :
    s.clearLoan k = { s with records := (s.clearLoan k).records, ports := (s.clearLoan k).ports } := by
  rcases s.clearLoan_cases k with ⟨-, e⟩ | ⟨l, -, e⟩ <;> rw [e]
  rw [State.setRecState_spec]
  rfl

theorem clearLoan_port (s : State) (k j : PortId) :
    (s.clearLoan k).port j = if k = j then unlent (s.port k) else s.port j := by
  rcases s.clearLoan_cases k with ⟨h, e⟩ | ⟨l, h, e⟩ <;> rw [e]
  · rw [unlent_of_none h]
    split
    · rename_i e; rw [e]
    · rfl
  · rw [State.setPort_port, State.setRecState_spec]
    simp [unlent, h]

theorem clearLoan_record (s : State) (k : PortId) (n : RecId) :
    (s.clearLoan k).record n =
      if (s.port k).loan.map (·.recId) = some n then (s.record n).map fun r => { r with state := .queued }
      else s.record n := by
  rcases s.clearLoan_cases k with ⟨h, e⟩ | ⟨l, h, e⟩ <;> rw [e]
  · simp [h]
  · rw [State.setPort_record, State.setRecState_spec, State.setRecord_record, h]
    simp only [Option.map_some, Option.some.injEq]
    split
    · rename_i e; rw [e]
    · rfl

/-- PORT RESET's effects (R94): the loan, then the watch, the set and the mask, then the role. -/
theorem portReset_eq (s : State) (k : PortId) :
    s.portReset k =
      State.setPort
        { s.clearLoan k with
          manager := if s.manager = some k then none else s.manager
          mgrMask := if s.manager = some k then 0 else s.mgrMask } k (unlent (s.port k)).resetOwn := by
  have hm : (s.clearLoan k).manager = s.manager := by rw [clearLoan_rest]
  have hk : (s.clearLoan k).mgrMask = s.mgrMask := by rw [clearLoan_rest]
  have hp : (s.clearLoan k).port k = unlent (s.port k) := by rw [clearLoan_port, if_pos rfl]
  rw [State.portReset]
  simp only [hp, State.setPort_manager, hm]
  by_cases h : s.manager = some k
  · simp only [if_pos h]
    rfl
  · simp only [if_neg h]
    rw [← hm, ← hk]

/-- Settles O16: the loan, the watch, the set and the mask, and the role. -/
theorem portResetClears : Obligations.PortResetClears := by
  intro k early s ht
  rw [exec_portReset ht, portReset_eq, answered_setPort]
  have hc := clearLoan_rest (s.setTx k (.running .portReset)) k
  have hp := clearLoan_port (s.setTx k (.running .portReset)) k
  have hr := clearLoan_record (s.setTx k (.running .portReset)) k
  generalize (s.setTx k (.running .portReset)).clearLoan k = u at hc hp hr
  refine ⟨_, rfl, ?_, fun j hj => ?_, fun n => ?_, rfl, rfl, ?_⟩
  · simp [unlent, Port.resetOwn, Status.code]
  · rw [State.setPort_port, if_neg (Ne.symm hj)]
    refine (hp j).trans ?_
    simp [Ne.symm hj]
  · refine (hr n).trans ?_
    simp
  · rw [hc]
    rfl

end Sys2Proof.Safety
end

section
/-! SUPPORT. Fetching, events, the role. -/

namespace Sys2Proof.Safety

open Sys2Proof.Machine

section
variable {s : State} {k : PortId} {b : Byte} {early : Bool}

/-! ### Discards seen from a port -/

/-- A record in use that a discard ends is not in use after it. -/
theorem discard_record (s : State) (n : RecId) : (s.discard n).record n = none := by
  rw [(State.discard_spec s n).record, State.discardOne_record, if_pos rfl]

/-- A port that held the record on loan holds it no longer (R19). -/
theorem discard_loan {l : Loan} (hl : (s.port k).loan = some l) (hr : s.record l.recId ≠ none) :
    ((s.discard l.recId).port k).loan = none := by
  rw [(State.discard_spec s l.recId).loan, discardOne_port s l.recId k hr, Port.dropLoanOf, if_pos (by simp [hl])]

theorem clearLoan_some {l : Loan} {r : Record} (hl : (s.port k).loan = some l) (hr : s.record l.recId = some r) :
    s.clearLoan k =
      (s.setRecord l.recId (some { r with state := .queued })).setPort k { s.port k with loan := none, readout := none } := by
  simp only [State.clearLoan, hl, State.setRecState, hr]

/-! ### FETCH -/

theorem exec_fetch (ht : (s.port k).tx = .running .fetch) (hc : (s.port k).inCount = 1) :
    exec (if b.getLsbD 1 = true then .fetchUq k b early else .fetch k b early) s =
      .next (s.fetchStep k b early (b.getLsbD 1)).resume := by
  have hb : s.byteStep k b = if uqFlag b then .fetchUq else .fetch := (byteStep_running ht b).trans (if_pos hc)
  unfold uqFlag at hb
  by_cases h : b.getLsbD 1 = true
  · rw [if_pos h] at hb ⊢
    rw [h]
    exact if_pos hb
  · rw [if_neg h] at hb ⊢
    rw [Bool.not_eq_true] at h
    rw [h]
    exact if_pos hb

/-- A FETCH that gives no message changes its transaction alone (R107). -/
theorem fetchStep_refused {uq : Bool} {u : State} {st : Status} (h : s.judgeFetch k uq = (u, st)) (hst : st ≠ .message) :
    (.next (s.fetchStep k b early uq).resume : Host.Outcome State Fault Refusal) = answered k early st.code u := by
  simp only [State.fetchStep, h, State.startReadout, if_neg hst]
  rfl

/-- With a message the loaned record is the readout record, and the auto-release flag is kept (R107). -/
theorem fetchStep_message {uq : Bool} {u : State} (h : s.judgeFetch k uq = (u, .message)) :
    (.next (s.fetchStep k b early uq).resume : Host.Outcome State Fault Refusal) =
      answered k early 0x02
        (u.setPort k
          { u.port k with readout := (u.port k).loan.map (·.recId), autoRelease := b.getLsbD 0 }) := by
  simp only [State.fetchStep, h, State.startReadout, if_true]
  rfl

theorem lend_eq {n : RecId} {r : Record} (hr : s.record n = some r) (k : PortId) (q : LoanQueue) :
    s.lend k n q =
      (s.setRecord n (some { r with state := .loaned })).setPort k { s.port k with loan := some { recId := n, queue := q } } := by
  rw [State.lend, State.setRecState_spec, hr]
  rfl

/-- A new choice: the record LOANED, the loan and the readout record of the port (R108). -/
theorem fetchStep_lent {uq : Bool} {u : State} {n : RecId} {r : Record} {q : LoanQueue}
    (h : s.judgeFetch k uq = (u.lend k n q, .message)) (hr : u.record n = some r) (hp : u.port k = s.port k) :
    (.next (s.fetchStep k b early uq).resume : Host.Outcome State Fault Refusal) =
      answered k early 0x02
        ((u.setRecord n (some { r with state := .loaned })).setPort k
          { s.port k with
            loan := some { recId := n, queue := q }, readout := some n, autoRelease := b.getLsbD 0 }) := by
  rw [fetchStep_message h, lend_eq hr, ← hp]
  simp

end

/-- Settles O24: the checks of a FETCH in their order. -/
theorem fetchAnswers : Obligations.FetchAnswers := by
  intro k b early s ht hc
  simp only [exec_fetch ht hc]
  refine ⟨fun hf => ?_, fun hf =>
    ⟨fun l hl => ?_, fun hl => ⟨fun hu => ⟨fun hm => ?_, fun hm => ⟨fun hq => ?_, fun n rest r hq hr => ?_⟩⟩,
      fun hu => ⟨fun hch => ?_, fun n cls run r hch hr => ?_⟩⟩⟩⟩
  · exact fetchStep_refused (u := s) (st := .fenced) (by simp only [State.judgeFetch, hf, if_true]) (by simp)
  · rw [fetchStep_message (u := s) (by simp [State.judgeFetch, hf, hl])]
    simp [hl]
  · exact fetchStep_refused (u := s) (st := .notManager) (by simp [State.judgeFetch, hf, hl, hu, hm]) (by simp)
  · exact fetchStep_refused (u := s) (st := .empty) (by simp [State.judgeFetch, hf, hl, hu, hm, State.lendUq, hq]) (by simp)
  · exact fetchStep_lent (u := s) (q := .uq) (by simp [State.judgeFetch, hf, hl, hu, hm, State.lendUq, hq]) hr rfl
  · exact fetchStep_refused (u := s) (st := .empty) (by rw [hu]; simp [State.judgeFetch, hf, hl, State.lendInbox, hch]) (by simp)
  · exact fetchStep_lent (u := s.setRun (.host k) run) (q := .inbox cls)
      (by rw [hu]; simp [State.judgeFetch, hf, hl, State.lendInbox, hch]) hr rfl

/-- The fields of a control byte (11.4). -/
theorem controlByte_fields (c : MsgClass) (h : BitVec 4) :
    (controlByte c h).getLsbD 7 = (c == .bulk) ∧ (controlByte c h).extractLsb' 4 3 = 0 ∧
      (controlByte c h).extractLsb' 0 4 = h := by
  revert h
  cases c <;> decide

/-- Settles O25: the byte formed, by its position. -/
theorem readoutBytes : Obligations.ReadoutBytes := by
  intro k b early s ht hc
  have hp : s.requestStep (s.port k) b .fetch = .plain := if_neg (by omega)
  have hrun : s.runningByte k .fetch b early =
      s.setPort k
        (({ s.port k with replyRest := (s.port k).replyRest.tail } : Port).shift early (s.nextOut k .fetch)) := by
    have hk : (s.port k).keeps .fetch = false := rfl
    simp [State.runningByte, State.keepByte, hk, State.setReply, State.shift]
  rw [exec_runningByte ht hp, hrun]
  refine ⟨fun hro => ?_, fun l r hl hro hr => ⟨s.readoutByte r ((s.port k).inCount + 1), ?_, ?_⟩⟩
  · have hout : s.nextOut k .fetch = 0x00 := by simp [State.nextOut, State.readoutRecord, hro]
    rw [hout]
  · have hout : s.nextOut k .fetch = s.readoutByte r ((s.port k).inCount + 1) := by
      simp [State.nextOut, State.readoutRecord, hl, hro, hr]
    rw [hout]
  · generalize (s.port k).inCount + 1 = i
    refine ⟨fun h => by subst h; rfl, fun h => by subst h; rfl, fun h => ?_, fun h => by subst h; rfl, fun h => by subst h; rfl,
      fun h => ?_, fun h => ?_, fun j c h hj hcell => ?_, fun h => ?_⟩
    · subst h
      exact controlByte_fields r.cls r.hops
    · subst h
      show loByte r.length = _
      unfold loByte
      bv_omega
    · subst h
      show reasonCode r.reason = _
      unfold reasonCode
      cases r.reason with
      | none => rfl
      | some q => cases q <;> rfl
    · subst h
      have hpay : s.readoutByte r (10 + j) = s.payload r j := by
        unfold State.readoutByte
        simp only [show ¬10 + j = 3 by omega, show ¬10 + j = 4 by omega, show ¬10 + j = 5 by omega, show ¬10 + j = 6 by omega,
          show ¬10 + j = 7 by omega, show ¬10 + j = 8 by omega, show ¬10 + j = 9 by omega, if_false]
        rw [if_pos (by omega), Nat.add_sub_cancel_left]
      rw [hpay]
      simp [State.payload, Record.payloadAddr, Config.cellBytes, hcell]
    · unfold State.readoutByte
      simp only [show ¬i = 3 by omega, show ¬i = 4 by omega, show ¬i = 5 by omega, show ¬i = 6 by omega,
        show ¬i = 7 by omega, show ¬i = 8 by omega, show ¬i = 9 by omega, if_false]
      exact if_neg (by omega)

/-- Settles O26: the checks of a RELEASE, and its discard. -/
theorem releaseEffect : Obligations.ReleaseEffect := by
  intro k early s ht
  simp only [exec_release ht]
  generalize hu : s.setTx k (.running .release) = u
  have hport : u.port k = { s.port k with tx := .running .release } := by rw [← hu]; simp [State.setTx]
  have hrec (n : RecId) : u.record n = s.record n := by rw [← hu]; rfl
  have hu' : s.setPort k { s.port k with tx := .running .release } = u := hu
  rw [hu']
  refine ⟨fun hf => ?_, fun hf => ⟨fun hl => ?_, fun l r hl hr => ⟨?_, ?_, discard_record _ _⟩⟩⟩
  · simp [State.releaseLoan, hport, hf, Status.code]
  · simp [State.releaseLoan, hport, hf, hl, Status.code]
  · simp [State.releaseLoan, hport, hf, hl, Status.code]
  · exact discard_loan (by rw [hport]; exact hl) (by rw [hrec, hr]; simp)

/-- Settles O27: what EVENTS samples, and what a raise does. -/
theorem eventsSnapshot : Obligations.EventsSnapshot := by
  refine ⟨fun k early s ht => ?_, fun _ _ _ => rfl, fun _ _ => rfl, fun _ _ => rfl, fun _ _ => rfl, rfl, rfl,
    fun set part late bit => ?_⟩
  · rw [exec_events ht]
    by_cases hm : s.manager = some k <;> simp [State.takeSnapshot, Snapshot.mgrByte, hm]
  · ext i hi
    simp
    grind

/-- Settles O28: in bytes 1 and 2 of MASK. -/
theorem maskWrites : Obligations.MaskWrites := by
  intro k b early s ht
  refine ⟨fun hc => if_pos ((byteStep_running ht b).trans (if_pos hc)), fun hc => ?_⟩
  refine (if_pos ((byteStep_running ht b).trans ((if_neg (by omega)).trans (if_pos hc)))).trans ?_
  split <;> rfl

/-- Settles O29: the checks of CLAIM and RESIGN, and what they do to the role and the loan. -/
theorem roleRequests : Obligations.RoleRequests := by
  intro k early s ht
  simp only [exec_claim ht, exec_resign ht]
  have hp (r : Request) : (s.setTx k (.running r)).port k = { s.port k with tx := .running r } := by simp [State.setTx]
  have hm (r : Request) : (s.setTx k (.running r)).manager = s.manager := rfl
  have answer {o : State × Status} {u : State} {st : Status} (h : o = (u, st)) :
      answered k early o.2.code o.1 = answered k early st.code u := by rw [h]
  refine ⟨fun hf => ⟨?_, ?_⟩, fun hf => ⟨fun h => ?_, fun h => ?_, fun m h hne => ?_, fun h => ?_, fun h => ⟨fun hl => ?_,
    fun l n hl hq hr => ?_⟩⟩⟩
  · exact answer (st := .fenced) (if_pos (by rw [hp]; exact hf))
  · exact answer (st := .fenced) (if_pos (by rw [hp]; exact hf))
  · exact answer (st := .done) ((if_neg (by rw [hp]; simp [hf])).trans (by rw [hm, h]; rfl))
  · exact answer (st := .done) ((if_neg (by rw [hp]; simp [hf])).trans (by rw [hm, h]; exact if_pos rfl))
  · exact answer (st := .held) ((if_neg (by rw [hp]; simp [hf])).trans (by rw [hm, h]; exact if_neg hne))
  · exact answer (st := .notManager) ((if_neg (by rw [hp]; simp [hf])).trans (if_pos h))
  · refine answer (st := .done) ((if_neg (by rw [hp]; simp [hf])).trans ((if_neg (by rw [hm]; simp [h])).trans ?_))
    have hno : ¬(((s.setTx k (.running .resign)).setManager none 0).port k).loan.map (·.queue) = some .uq := by
      rw [State.setManager_port, hp]
      cases hl' : (s.port k).loan with
      | none => simp
      | some l => simpa [hl'] using hl l hl'
    rw [State.clearUqLoan, if_neg hno]
    rfl
  · refine answer (st := .done) ((if_neg (by rw [hp]; simp [hf])).trans ((if_neg (by rw [hm]; simp [h])).trans ?_))
    have hport : ((s.setTx k (.running .resign)).setManager none 0).port k = { s.port k with tx := .running .resign } := hp _
    have hrec : ((s.setTx k (.running .resign)).setManager none 0).record l.recId = some n := hr
    rw [State.clearUqLoan, if_pos (by rw [hport]; simp [hl, hq])]
    rw [clearLoan_some (by rw [hport]; exact hl) hrec, hport]
    rfl

end Sys2Proof.Safety
end

section
/-! SUPPORT. The item space: its indices, the value bytes of its items, and what a write is judged by. -/

namespace Sys2Proof.Safety

open Sys2Proof.Machine

/-! ### Bytes that name an index -/

theorem portOfByte_ofNat (k : PortId) : portOfByte (BitVec.ofNat 8 k.val) = some k := by revert k; decide
theorem linkOfByte_ofNat (x : LinkId) : linkOfByte (BitVec.ofNat 8 x.val) = some x := by revert x; decide
theorem routeOfByte_ofNat (i : Fin 32) : routeOfByte (BitVec.ofNat 8 i.val) = some i := by revert i; decide
theorem partyOfByte_partyByte (p : Party) : partyOfByte (partyByte p) = some p := by
  unfold partyByte
  obtain ⟨i, rfl⟩ : ∃ i, p = Party.ofNum i := ⟨p.num, (Party.ofNum_num p).symm⟩
  rw [Party.num_ofNum]
  revert i
  decide
theorem classOfByte_classByte (q : QueueId) : classOfByte (classByte q) = some q := by
  unfold classByte
  obtain ⟨i, rfl⟩ : ∃ i, q = QueueId.ofNum i := ⟨q.num, (QueueId.ofNum_num q).symm⟩
  rw [QueueId.num_ofNum]
  revert i
  decide

theorem classByte_ne (q : QueueId) : classByte q ≠ 12 := by
  unfold classByte
  generalize q.num = i
  revert i
  decide

theorem portOfByte_none {b : Byte} (h : 4 ≤ b.toNat) : portOfByte b = none := dif_neg (by omega)
theorem linkOfByte_none {b : Byte} (h : 2 ≤ b.toNat) : linkOfByte b = none := dif_neg (by omega)
theorem routeOfByte_none {b : Byte} (h : 32 ≤ b.toNat) : routeOfByte b = none := dif_neg (by omega)
theorem partyOfByte_none {b : Byte} (h : 6 ≤ b.toNat) : partyOfByte b = none := dif_neg (by omega)
theorem classOfByte_none {b : Byte} (h : 12 ≤ b.toNat) : classOfByte b = none := dif_neg (by omega)

theorem isSome_portOfByte (b : Byte) : (portOfByte b).isSome = true ↔ b.toNat < 4 := by simp [portOfByte]
theorem isSome_linkOfByte (b : Byte) : (linkOfByte b).isSome = true ↔ b.toNat < 2 := by simp [linkOfByte]
theorem isSome_routeOfByte (b : Byte) : (routeOfByte b).isSome = true ↔ b.toNat < 32 := by simp [routeOfByte]
theorem isSome_partyOfByte (b : Byte) : (partyOfByte b).isSome = true ↔ b.toNat < 6 := by simp [partyOfByte]
theorem isSome_classOfByte (b : Byte) : (classOfByte b).isSome = true ↔ b.toNat < 12 := by simp [classOfByte]

theorem byte_eq_zero_iff (b : Byte) : b = 0 ↔ b.toNat < 1 := by bv_omega

/-! ### The value bytes -/

theorem queueBytes_isSome (s : State) (b : Byte) : (s.queueBytes b).isSome = true ↔ b.toNat < 13 := by
  unfold State.queueBytes
  split
  · rename_i h; subst h; exact iff_of_true rfl (by decide)
  · rename_i h
    rw [Option.isSome_map, isSome_classOfByte]
    have : b.toNat ≠ 12 := fun c => h (by bv_omega)
    omega

/-- An id has exactly its range of indices (R134). -/
theorem itemValue_isSome (s : State) (id index : Byte) :
    (s.itemValue id index).isSome = true ↔ index.toNat < itemIndices id := by
  by_cases h : id ∈ ([0x01, 0x02, 0x03, 0x04, 0x05, 0x06, 0x07, 0x08, 0x09, 0x10, 0x11, 0x12, 0x13, 0x14] : List Byte)
  · have single {α : Type} (a : α) : (if index = 0 then some a else none).isSome = true ↔ index.toNat < 1 := by
      rw [← byte_eq_zero_iff]
      by_cases h0 : index = 0 <;> simp [h0]
    have mapped {α β : Type} {o : Option α} {n : Nat} (ho : o.isSome = true ↔ index.toNat < n) (f : α → β) :
        (o.map f).isSome = true ↔ index.toNat < n := by rw [Option.isSome_map, ho]
    simp only [List.mem_cons, List.not_mem_nil, or_false] at h
    rcases h with rfl | rfl | rfl | rfl | rfl | rfl | rfl | rfl | rfl | rfl | rfl | rfl | rfl | rfl
    · exact mapped (isSome_routeOfByte index) _
    · exact mapped (isSome_portOfByte index) _
    · exact mapped (isSome_partyOfByte index) _
    · exact mapped (isSome_partyOfByte index) _
    · exact mapped (isSome_classOfByte index) _
    · exact mapped (isSome_partyOfByte index) _
    · exact mapped (isSome_linkOfByte index) _
    · exact single _
    · exact single _
    · exact mapped (isSome_partyOfByte index) _
    · exact mapped (isSome_linkOfByte index) _
    · exact single _
    · exact mapped (isSome_portOfByte index) _
    · exact queueBytes_isSome s index
  · simp only [List.mem_cons, List.not_mem_nil, or_false, not_or] at h
    obtain ⟨h1, h2, h3, h4, h5, h6, h7, h8, h9, h10, h11, h12, h13, h14⟩ := h
    simp only [State.itemValue, itemIndices, h1, h2, h3, h4, h5, h6, h7, h8, h9, h10, h11, h12, h13, h14, if_false, or_false]
    simp

/-- The number of free records (R140). -/
theorem unused_length (s : State) :
    (s.records.toList.filter Option.isNone).length = ((List.finRange 128).filter fun n => (s.record n).isNone).length := by
  have h : s.records.toList = (List.finRange 128).map s.record := by
    apply List.ext_getElem
    · simp
    · intro i h1 h2
      simp [State.record, vget]
  rw [h, List.filter_map, List.length_map]
  rfl

/-- Settles O30: the verdicts of a READ ITEM, and the value bytes of each item. -/
theorem itemReads : Obligations.ItemReads := by
  refine ⟨fun k id b early s ht hc hb => ?_, fun s => ⟨itemValue_isSome s, fun i => ?_, fun k => ⟨?_, ?_⟩,
    fun p => ⟨?_, ?_, ?_, ?_⟩, fun q => ⟨?_, ?_⟩, ?_, fun x => ⟨?_, ?_⟩, ?_, ?_, ?_⟩⟩
  · have e : exec (.readItem k b early) s =
        answered k early (s.readReply k id b).1.code (s.setReply k (s.readReply k id b).2) := by
      refine (if_pos ((byteStep_running ht b).trans (if_pos hc))).trans ?_
      rw [hb]
      rfl
    rw [e]
    unfold State.readReply
    refine ⟨fun hf => ?_, fun hf => ⟨fun hv => ?_, fun v hv => ?_⟩⟩
    · rw [if_pos hf]; rfl
    · rw [if_neg (by simp [hf]), hv]; rfl
    · rw [if_neg (by simp [hf]), hv]; rfl
  · show (routeOfByte _).map _ = _
    rw [routeOfByte_ofNat]; rfl
  · show (portOfByte _).map _ = _
    rw [portOfByte_ofNat]; rfl
  · show (portOfByte _).map _ = _
    rw [portOfByte_ofNat]; rfl
  · show (partyOfByte _).map _ = _
    rw [partyOfByte_partyByte]; rfl
  · show (partyOfByte _).map _ = _
    rw [partyOfByte_partyByte]; rfl
  · show (partyOfByte _).map _ = _
    rw [partyOfByte_partyByte]; rfl
  · show (partyOfByte _).map _ = _
    rw [partyOfByte_partyByte]; rfl
  · show (classOfByte _).map _ = _
    rw [classOfByte_classByte]; rfl
  · show s.queueBytes (classByte q) = _
    rw [State.queueBytes, if_neg (classByte_ne q), classOfByte_classByte]
    rfl
  · rfl
  · show (linkOfByte _).map _ = _
    rw [linkOfByte_ofNat]; rfl
  · show (linkOfByte _).map _ = _
    rw [linkOfByte_ofNat]; rfl
  · rfl
  · rfl
  · show (some [_, _, hiByte (s.records.toList.filter Option.isNone).length, loByte _] : Option (List Byte)) = _
    rw [unused_length]

end Sys2Proof.Safety
end

section
/-! SUPPORT. The checks before a request's own, and the item writes that reach no link. -/

namespace Sys2Proof.Safety

open Sys2Proof.Machine

section
variable {s : State} {k : PortId} {id index v0 v1 v2 b : Byte} {early : Bool}

/-! ### In byte 6 of a WRITE ITEM -/

theorem itemWrite_of (h : WritesItem s k id index v0 v1 v2) (b : Byte) :
    (s.port k).itemWrite b = { id := id, index := index, v0 := v0, v1 := v1, v2 := v2, v3 := b } := by
  obtain ⟨-, -, hb⟩ := h
  simp [Port.itemWrite, hb]

theorem byteStep_writes (h : WritesItem s k id index v0 v1 v2) (b : Byte) :
    s.byteStep k b = s.writeStep { id := id, index := index, v0 := v0, v1 := v1, v2 := v2, v3 := b } := by
  have e := itemWrite_of h b
  obtain ⟨ht, hc, -⟩ := h
  rw [byteStep_running ht, ← e]
  exact if_pos hc

theorem judgeWrite_manages {α : Type} (hm : Manages s k) {w : ItemWrite} (hid : readOnlyId w.id = false)
    (own : Except Status α) : s.judgeWrite k w own = own := by
  obtain ⟨hf, hr⟩ := hm
  simp [State.judgeWrite, hf, hr, hid]

/-- What a write answers, by its verdict. -/
def writeOutcome {α : Type} (s : State) (k : PortId) (early : Bool) (effect : α → State) : Except Status α →
    Host.Outcome State Fault Refusal
  | .error st => answered k early st.code s
  | .ok a => answered k early 0x01 (effect a)

theorem answerWrite_eq {α : Type} (s : State) (k : PortId) (early : Bool) (v : Except Status α) (effect : α → State) :
    (.next (s.answerWrite k early v effect).resume : Host.Outcome State Fault Refusal) = writeOutcome s k early effect v := by
  cases v <;> rfl

/-- The manager's write of a writable item: its own check, and its effect. -/
theorem manages_write {α : Type} (h : WritesItem s k id index v0 v1 v2) (hm : Manages s k) (hid : readOnlyId id = false)
    (own : ItemWrite → Except Status α) (effect : α → State) :
    (.next (s.answerWrite k early (s.judgeWrite k ((s.port k).itemWrite b) (own ((s.port k).itemWrite b))) effect).resume :
        Host.Outcome State Fault Refusal) =
      writeOutcome s k early effect (own { id := id, index := index, v0 := v0, v1 := v1, v2 := v2, v3 := b }) := by
  rw [answerWrite_eq, itemWrite_of h, judgeWrite_manages hm hid]

theorem exec_routeWrite (h : WritesItem s k 0x01 index v0 v1 v2) (hm : Manages s k) :
    exec (.routeWrite k b early) s =
      writeOutcome s k early (fun a => s.setRoute a.1 a.2) (s.routeCheck ⟨0x01, index, v0, v1, v2, b⟩) :=
  (if_pos (byteStep_writes h b)).trans (manages_write h hm rfl s.routeCheck _)

theorem exec_portaddrWrite (h : WritesItem s k 0x02 index v0 v1 v2) (hm : Manages s k) :
    exec (.portaddrWrite k b early) s =
      writeOutcome s k early (fun a => s.setPortAddr a.1 a.2) (portaddrCheck ⟨0x02, index, v0, v1, v2, b⟩) :=
  (if_pos (byteStep_writes h b)).trans (manages_write h hm rfl portaddrCheck _)

theorem exec_guaranteeWrite (h : WritesItem s k 0x03 index v0 v1 v2) (hm : Manages s k) :
    exec (.guaranteeWrite k b early) s =
      writeOutcome s k early (fun a => s.setGuarantee a.1 a.2) (s.guaranteeCheck ⟨0x03, index, v0, v1, v2, b⟩) :=
  (if_pos (byteStep_writes h b)).trans (manages_write h hm rfl s.guaranteeCheck _)

theorem exec_limitWrite (h : WritesItem s k 0x04 index v0 v1 v2) (hm : Manages s k) :
    exec (.limitWrite k b early) s =
      writeOutcome s k early (fun a => s.setLimit a.1 a.2) (s.limitCheck ⟨0x04, index, v0, v1, v2, b⟩) :=
  (if_pos (byteStep_writes h b)).trans (manages_write h hm rfl s.limitCheck _)

theorem exec_depthWrite (h : WritesItem s k 0x05 index v0 v1 v2) (hm : Manages s k) :
    exec (.depthWrite k b early) s =
      writeOutcome s k early (fun a => s.setDepth a.1 a.2) (s.depthCheck ⟨0x05, index, v0, v1, v2, b⟩) :=
  (if_pos (byteStep_writes h b)).trans (manages_write h hm rfl s.depthCheck _)

theorem exec_runlimitWrite (h : WritesItem s k 0x06 index v0 v1 v2) (hm : Manages s k) :
    exec (.runlimitWrite k b early) s =
      writeOutcome s k early (fun a => s.setRunLimit a.1 a.2) (runlimitCheck ⟨0x06, index, v0, v1, v2, b⟩) :=
  (if_pos (byteStep_writes h b)).trans (manages_write h hm rfl runlimitCheck _)

theorem exec_posttimeoutWrite (h : WritesItem s k 0x08 index v0 v1 v2) (hm : Manages s k) :
    exec (.posttimeoutWrite k b early) s =
      writeOutcome s k early s.setPostTimeout (posttimeoutCheck ⟨0x08, index, v0, v1, v2, b⟩) :=
  (if_pos (byteStep_writes h b)).trans (manages_write h hm rfl posttimeoutCheck _)

theorem exec_lowmarkWrite (h : WritesItem s k 0x09 index v0 v1 v2) (hm : Manages s k) :
    exec (.lowmarkWrite k b early) s =
      writeOutcome s k early s.setLowMark (lowmarkCheck ⟨0x09, index, v0, v1, v2, b⟩) :=
  (if_pos (byteStep_writes h b)).trans (manages_write h hm rfl lowmarkCheck _)

end

/-- Settles O32: each check, and the item replaced. -/
theorem plainItemWrites : Obligations.PlainItemWrites := by
  intro k id index v0 v1 v2 b early s h hm
  refine ⟨fun hid => ?_, fun hid => ?_, fun hid => ?_, fun hid => ?_⟩ <;> subst hid
  · simp only [exec_portaddrWrite h hm, portaddrCheck]
    refine ⟨fun j hj => ?_, fun hj => ?_⟩
    · rw [hj, portOfByte_ofNat]; rfl
    · rw [portOfByte_none hj]; rfl
  · simp only [exec_runlimitWrite h hm, runlimitCheck]
    refine ⟨fun p hp => ⟨fun h1 h2 => ?_, fun hr => ?_⟩, fun hp => ?_⟩
    · rw [hp, partyOfByte_partyByte]
      simp only
      rw [if_neg (by omega)]
      rfl
    · rw [hp, partyOfByte_partyByte]
      simp only
      rw [if_pos hr]
      rfl
    · rw [partyOfByte_none hp]; rfl
  · simp only [exec_posttimeoutWrite h hm, posttimeoutCheck]
    refine ⟨fun hi => ?_, fun hi => ?_⟩
    · rw [if_pos hi]; rfl
    · rw [if_neg hi]; rfl
  · simp only [exec_lowmarkWrite h hm, lowmarkCheck]
    refine ⟨fun hi hv => ?_, fun hv => ?_⟩
    · rw [if_pos ⟨hi, hv⟩]; rfl
    · rw [if_neg (by simp only [twoBytes]; rintro ⟨h1, h2⟩; rcases hv with hv | hv <;> [exact hv h1; omega])]; rfl

/-! ### ROUTE -/

theorem otherHolds_iff {s : State} {i : Fin 32} {a : Byte} :
    s.otherHolds i a = true ↔ ∃ j, j ≠ i ∧ (vget s.routes j).valid = true ∧ (vget s.routes j).address = a := by
  simp [State.otherHolds, and_assoc]

/-- The fields of a ROUTE value in range spell the entry (11.7). -/
theorem routeEntry_of (index v1 : Byte) (valid : Bool) (d : Party) (alt : Option Party) :
    ItemWrite.routeEntry
        ⟨0x01, index, if valid then 0x01 else 0x00, v1, partyByte d, (alt.map partyByte).getD 0xFF⟩ =
      some { valid := valid, address := v1, primary := d, alternate := alt } := by
  have hv : (if valid then (0x01 : Byte) else 0x00).toNat ≤ 1 := by cases valid <;> decide
  have hv' : ((if valid then (0x01 : Byte) else 0x00) == 1) = valid := by cases valid <;> rfl
  have hne (p : Party) : partyByte p ≠ 0xFF := by
    unfold partyByte
    generalize p.num = i
    revert i
    decide
  unfold ItemWrite.routeEntry
  simp only [if_pos hv, partyOfByte_partyByte, hv']
  cases alt with
  | none => exact if_pos rfl
  | some a =>
    refine (if_neg (hne a)).trans ?_
    simp [partyOfByte_partyByte]

/-- A ROUTE value with a field out of range spells none. -/
theorem routeEntry_none {w : ItemWrite} (h : 1 < w.v0.toNat ∨ 5 < w.v2.toNat ∨ 5 < w.v3.toNat ∧ w.v3 ≠ 0xFF) :
    w.routeEntry = none := by
  unfold ItemWrite.routeEntry
  rcases h with h | h | ⟨h, hne⟩
  · exact if_neg (by omega)
  · rw [partyOfByte_none (by omega)]
    exact ite_self _
  · split
    · split
      · rfl
      · rw [partyOfByte_none (by omega)]
        rfl
    · rfl

/-- Settles O33: RANGE, DUPLICATE, or the entry replaced. -/
theorem routeWrites : Obligations.RouteWrites := by
  intro k index v0 v1 v2 b early s h hm
  rw [exec_routeWrite h hm]
  refine ⟨fun hr => ?_, fun i valid d alt hi hv0 hv2 hb => ?_⟩
  · have hc : s.routeCheck ⟨0x01, index, v0, v1, v2, b⟩ = .error .range := by
      unfold State.routeCheck
      rcases hr with hr | hr
      · rw [routeOfByte_none (by exact hr)]
      · rw [routeEntry_none hr]
        cases routeOfByte index <;> rfl
    rw [hc]
    rfl
  · subst hv0 hv2 hb hi
    simp only [State.routeCheck, routeOfByte_ofNat, routeEntry_of, otherHolds_iff]
    refine ⟨fun hc => ?_, fun hc => ?_⟩
    · rw [if_pos hc]; rfl
    · rw [if_neg hc]; rfl

/-! ### GUARANTEE and LIMIT -/

/-- The conflict of a guarantee, without subtraction (R35). -/
theorem guaranteeConflict_iff (s : State) (p : Party) (n : Nat) :
    (Config.cellCount < s.sumGuaranteeWith p n ∨ Config.cellCount < s.sharedUsageWith p n + s.sumGuaranteeWith p n) ↔
      512 < sumParties (fun i => if i = p.num then n else vget s.guarantee i) ∨
        512 - sumParties (fun i => if i = p.num then n else vget s.guarantee i) <
          sumParties fun i => vget s.usage i - if i = p.num then n else vget s.guarantee i := by
  have e (i : Fin 6) : vget (vset s.guarantee p.num n) i = if i = p.num then n else vget s.guarantee i := by
    rw [vget_vset]; simp only [eq_comm]
  have e1 : s.sumGuaranteeWith p n = sumParties fun i => if i = p.num then n else vget s.guarantee i := by
    simp only [State.sumGuaranteeWith, sumParties, e]
  have e2 : s.sharedUsageWith p n = sumParties fun i => vget s.usage i - if i = p.num then n else vget s.guarantee i := by
    simp only [State.sharedUsageWith, e]
  rw [e1, e2, Config.cellCount]
  omega

/-- Settles O34: RANGE, CONFLICT, or the figure replaced with its event. -/
theorem accountWrites : Obligations.AccountWrites := by
  intro k id index v0 v1 v2 b early s h hm
  refine ⟨fun hid => ?_, fun hid => ?_⟩ <;> subst hid
  · simp only [exec_guaranteeWrite h hm, State.guaranteeCheck]
    refine ⟨fun hp => by rw [partyOfByte_none hp]; rfl, fun p hp => ?_⟩
    subst hp
    simp only [partyOfByte_partyByte, guaranteeConflict_iff]
    have range (h1 : twoBytes v2 b ≤ 512) (h2 : twoBytes v2 b ≤ s.lim p) :
        ¬(Config.cellCount < twoBytes v2 b ∨ s.lim p < twoBytes v2 b) := by
      simp only [Config.cellCount]
      omega
    refine ⟨fun hr => ?_, fun h1 h2 => ⟨fun hc => ?_, fun hc => ?_⟩⟩
    · rw [if_pos (show Config.cellCount < twoBytes v2 b ∨ s.lim p < twoBytes v2 b from hr)]; rfl
    · rw [if_neg (range h1 h2), if_pos (by exact hc)]; rfl
    · rw [if_neg (range h1 h2), if_neg (by exact hc)]; rfl
  · simp only [exec_limitWrite h hm, State.limitCheck]
    refine ⟨fun hp => by rw [partyOfByte_none hp]; rfl, fun p hp => ?_⟩
    subst hp
    simp only [partyOfByte_partyByte]
    refine ⟨fun hr => ?_, fun h1 h2 => ?_⟩
    · rw [if_pos (show twoBytes v2 b < s.guar p ∨ Config.cellCount < twoBytes v2 b from hr)]; rfl
    · have range : ¬(twoBytes v2 b < s.guar p ∨ Config.cellCount < twoBytes v2 b) := by
        simp only [Config.cellCount, twoBytes]
        omega
      rw [if_neg range]
      cases p <;> rfl

/-! ### DEPTH -/

/-- A port after the DEPTH watches of some classes are judged (R39). -/
def depthJudged (s : State) (falls : List QueueId) (p : Port) : Port :=
  match p.watch with
  | .depth q => if q ∈ falls ∧ (s.qclass q).occupancy < (s.qclass q).depth then p.satisfy else p
  | .cells _ => p
  | .absent => p

theorem judgeDepth_port (s : State) (falls : List QueueId) (k : PortId) :
    (s.judgeDepth falls).port k = depthJudged s falls (s.port k) := by
  simp only [State.judgeDepth, State.port, vget_map, depthJudged]
  cases (vget s.ports k).watch <;> simp only

/-- Settles O35: RANGE, CONFLICT, or the limit replaced with the DEPTH watches of the class judged. -/
theorem depthWrites : Obligations.DepthWrites := by
  intro k index v0 v1 v2 b early s h hm
  simp only [exec_depthWrite h hm, State.depthCheck]
  refine ⟨fun hr => ?_, fun q hq h1 h2 => ?_⟩
  · rcases hr with hr | hr
    · rw [classOfByte_none (by omega)]; rfl
    · cases classOfByte index with
      | none => rfl
      | some q => simp only; rw [if_pos hr]; rfl
  · subst hq
    simp only [classOfByte_classByte]
    rw [if_neg (by omega)]
    refine ⟨fun hc => ?_, fun h3 h4 => ?_⟩
    · rw [if_pos (by exact hc)]; rfl
    · rw [if_neg (by
        rintro (c | c)
        · exact absurd h3 (not_le.mpr c)
        · exact absurd h4 (not_le.mpr c))]
      refine ⟨s.setDepth q b.toNat, rfl, fun q' => ?_, fun j => ?_, rfl⟩
      · refine (State.setClass_qclass s q _ q').trans ?_
        simp only [eq_comm]
      · refine (judgeDepth_port _ [q] j).trans ?_
        have hroom : ((s.setClass q { s.qclass q with depth := b.toNat }).qclass q).occupancy <
            ((s.setClass q { s.qclass q with depth := b.toNat }).qclass q).depth ↔
            (s.qclass q).recs.length + (s.qclass q).reserved < b.toNat := by
          simp [QueueClass.occupancy]
        unfold depthJudged
        rw [State.setClass_port]
        by_cases hw : (s.port j).watch = .depth q
        · simp only [hw, List.mem_singleton, true_and, hroom]
          rfl
        · rw [if_neg fun c => hw c.1]
          cases hw' : (s.port j).watch with
          | absent => rfl
          | cells n => rfl
          | depth q' =>
            exact if_neg fun c => hw (by rw [hw', List.mem_singleton.mp c.1])

end Sys2Proof.Safety
end

section
/-! SUPPORT. The checks that come before a request's own (R91, R136, R141), and the writes of LINKCTRL. -/

namespace Sys2Proof.Safety

open Sys2Proof.Machine

section
variable {s : State} {k : PortId} {id index v0 v1 v2 b : Byte} {early : Bool} {c : Instr} {st : Status}

/-! ### Refusals -/

/-- A WRITE ITEM that a check before its item's own refuses answers that, whatever its item (R136). -/
theorem exec_write_refused (h : WritesItem s k id index v0 v1 v2)
    (hc : commandOf k b early (s.byteStep k b) = some c)
    (hj : ∀ (α : Type) (own : Except Status α), s.judgeWrite k ((s.port k).itemWrite b) own = .error st) :
    exec c s = answered k early st.code s := by
  have hst : stepTx (s.byteStep k b) = some (.running .writeItem) := by
    rw [byteStep_writes h]; exact stepTx_writeStep s _
  have refused {α : Type} {step : ByteStep} (hb : s.byteStep k b = step) (own : Except Status α) (effect : α → State) :
      (if s.byteStep k b = step then
          .next (s.answerWrite k early (s.judgeWrite k ((s.port k).itemWrite b) own) effect).resume
        else .next s.resume : Host.Outcome State Fault Refusal) = answered k early st.code s := by
    rw [if_pos hb, hj]; rfl
  cases hb : s.byteStep k b with
  | writeItem => rw [hb] at hc; cases hc; exact refused hb _ _
  | routeWrite => rw [hb] at hc; cases hc; exact refused hb _ _
  | portaddrWrite => rw [hb] at hc; cases hc; exact refused hb _ _
  | guaranteeWrite => rw [hb] at hc; cases hc; exact refused hb _ _
  | limitWrite => rw [hb] at hc; cases hc; exact refused hb _ _
  | depthWrite => rw [hb] at hc; cases hc; exact refused hb _ _
  | runlimitWrite => rw [hb] at hc; cases hc; exact refused hb _ _
  | posttimeoutWrite => rw [hb] at hc; cases hc; exact refused hb _ _
  | lowmarkWrite => rw [hb] at hc; cases hc; exact refused hb _ _
  | linkEnable => rw [hb] at hc; cases hc; exact refused hb _ _
  | linkDisable => rw [hb] at hc; cases hc; exact refused hb _ _
  | ignored | plain | undefinedCode | nop | post | payload | fetch | fetchUq | release | events | mask | managerMask | query
  | claim | resign | portReset | readItem | fence | unfence | purge | drain | restart => rw [hb] at hst; cases hst

/-- The step of a write of an id that no writable item has. -/
theorem writeStep_other {w : ItemWrite} (h : w.id.toNat = 0 ∨ 9 < w.id.toNat) : s.writeStep w = .writeItem := by
  have ne (i : Byte) (h1 : 1 ≤ i.toNat) (h2 : i.toNat ≤ 9) : w.id ≠ i := by
    rintro rfl
    omega
  unfold State.writeStep
  rw [if_neg (ne 0x01 (by decide) (by decide)), if_neg (ne 0x02 (by decide) (by decide)),
    if_neg (ne 0x03 (by decide) (by decide)), if_neg (ne 0x04 (by decide) (by decide)),
    if_neg (ne 0x05 (by decide) (by decide)), if_neg (ne 0x06 (by decide) (by decide)),
    if_neg (ne 0x07 (by decide) (by decide)), if_neg (ne 0x08 (by decide) (by decide)),
    if_neg (ne 0x09 (by decide) (by decide))]

/-- WRITE_ITEM itself, by the verdict of its check. -/
theorem exec_writeItem (hb : s.byteStep k b = .writeItem) :
    exec (.writeItem k b early) s =
      writeOutcome s k early (fun a => s.writeCtrl a.1 a.2)
        (s.judgeWrite k ((s.port k).itemWrite b)
          (if ((s.port k).itemWrite b).id = 0x07 then linkCtrlCheck ((s.port k).itemWrite b) else .error .range)) :=
  (if_pos hb).trans (answerWrite_eq _ _ _ _ _)

/-- An administrative request that its checks refuse (R141). -/
theorem exec_admin_refused {r : Request} (hr : isAdmin r = true) (ht : (s.port k).tx = .running r)
    (hi : (s.port k).inCount = 1) (hc : commandOf k b early (s.byteStep k b) = some c)
    (hf : r = .fence → s.judgeAdmin k (portOfByte b) = .error st)
    (hu : r = .unfence → s.judgeAdmin k (portOfByte b) = .error st)
    (hp : r = .purge → s.judgeAdmin k (purgeTarget b) = .error st)
    (hd : r = .drain → s.judgeAdmin k (linkOfByte b) = .error st) : exec c s = answered k early st.code s := by
  have hb := byteStep_running ht b
  rw [hb] at hc
  cases r with
  | fence =>
    have hs : s.requestStep (s.port k) b .fence = .fence := if_pos hi
    rw [hs] at hc hb; cases hc
    refine (if_pos hb).trans ?_
    rw [hf rfl]; rfl
  | unfence =>
    have hs : s.requestStep (s.port k) b .unfence = .unfence := if_pos hi
    rw [hs] at hc hb; cases hc
    refine (if_pos hb).trans ?_
    rw [hu rfl]; rfl
  | purge =>
    have hs : s.requestStep (s.port k) b .purge = .purge := if_pos hi
    rw [hs] at hc hb; cases hc
    refine (if_pos hb).trans ?_
    rw [hp rfl]; rfl
  | drain =>
    have hs : s.requestStep (s.port k) b .drain = .drain := if_pos hi
    rw [hs] at hc hb; cases hc
    refine (if_pos hb).trans ?_
    rw [hd rfl]; rfl
  | nop | post | fetch | release | events | mask | query | claim | resign | portReset | readItem | writeItem | restart => cases hr

theorem judgeAdmin_fenced {α : Type} (hf : (s.port k).fenced = true) (t : Option α) :
    s.judgeAdmin k t = .error .fenced := if_pos hf

theorem judgeAdmin_notManager {α : Type} (hf : (s.port k).fenced = false) (hm : s.manager ≠ some k) (t : Option α) :
    s.judgeAdmin k t = .error .notManager := (if_neg (by simp [hf])).trans (if_pos hm)

theorem judgeAdmin_manages {α : Type} (hm : Manages s k) (t : Option α) :
    s.judgeAdmin k t = match t with
      | none => .error .range
      | some a => .ok a := by
  obtain ⟨hf, hr⟩ := hm
  refine (if_neg (by simp [hf])).trans ((if_neg (by simp [hr])).trans ?_)
  cases t <;> rfl

end

theorem purgeTarget_none {b : Byte} (h : 4 < b.toNat) : purgeTarget b = none := by
  unfold purgeTarget
  rw [if_neg (by rintro rfl; simp at h), portOfByte_none (by omega)]
  rfl

/-- Settles O31: the checks in their order. -/
theorem requestChecks : Obligations.RequestChecks := by
  refine ⟨fun k id index v0 v1 v2 b early c s h hc =>
      ⟨fun hf => ?_, fun hf hm => ?_, fun hm => ⟨fun h1 h2 => ?_, fun hid => ?_⟩⟩,
    fun k r b early c s hr ht hi hc => ⟨fun hf => ?_, fun hf hm => ?_, fun hm => ⟨fun hn => ?_, fun hrf hbk => ?_⟩⟩,
    fun k early s ht => ?_⟩
  · exact exec_write_refused (st := .fenced) h hc fun _ _ => if_pos hf
  · exact exec_write_refused (st := .notManager) h hc fun _ _ => (if_neg (by simp [hf])).trans (if_pos hm)
  · refine exec_write_refused (st := .readOnly) h hc fun _ _ => ?_
    obtain ⟨hf, hr⟩ := hm
    have hro : readOnlyId ((s.port k).itemWrite b).id = true := by
      rw [itemWrite_of h]
      simp only [readOnlyId, decide_eq_true_eq]
      exact ⟨h1, h2⟩
    simp [State.judgeWrite, hf, hr, hro]
  · have hid' : id.toNat = 0 ∨ 9 < id.toNat ∧ id.toNat < 0x10 ∨ 0x14 < id.toNat := by
      rcases hid with rfl | hid | hid
      · exact .inl rfl
      · exact .inr (.inl hid)
      · exact .inr (.inr hid)
    have hb : s.byteStep k b = .writeItem := (byteStep_writes h b).trans (writeStep_other (by simp only; omega))
    rw [hb] at hc
    cases hc
    rw [exec_writeItem hb, itemWrite_of h, judgeWrite_manages hm (by
      simp only [readOnlyId, decide_eq_false_iff_not]
      omega), if_neg (by
      intro e
      change id = 7 at e
      rw [e] at hid'
      simp at hid')]
    rfl
  · exact exec_admin_refused (st := .fenced) hr ht hi hc (fun _ => judgeAdmin_fenced hf _) (fun _ => judgeAdmin_fenced hf _)
      (fun _ => judgeAdmin_fenced hf _) (fun _ => judgeAdmin_fenced hf _)
  · exact exec_admin_refused (st := .notManager) hr ht hi hc (fun _ => judgeAdmin_notManager hf hm _)
      (fun _ => judgeAdmin_notManager hf hm _) (fun _ => judgeAdmin_notManager hf hm _)
      (fun _ => judgeAdmin_notManager hf hm _)
  · refine exec_admin_refused (st := .range) hr ht hi hc (fun e => ?_) (fun e => ?_) (fun e => ?_) (fun e => ?_) <;> subst e <;>
      rw [judgeAdmin_manages hm]
    · rw [portOfByte_none hn]
    · rw [portOfByte_none hn]
    · rw [purgeTarget_none hn]
    · rw [linkOfByte_none hn]
  · subst hrf
    have hs : s.requestStep (s.port k) b .fence = .fence := if_pos hi
    have hb := (byteStep_running ht b).trans hs
    rw [hb] at hc
    cases hc
    have hj : portOfByte b = some k := by
      rw [← portOfByte_ofNat k, ← hbk]
      simp
    refine (if_pos hb).trans ?_
    rw [judgeAdmin_manages hm, hj]
    exact if_pos rfl
  · refine ⟨fun hf => (if_pos (byteStep_opened ht 0x7F)).trans ?_, fun hf hm => (if_pos (byteStep_opened ht 0x7F)).trans ?_⟩
    · simp only
      rw [judgeAdmin_fenced (by simp [State.setTx, hf])]
      rfl
    · simp only
      rw [judgeAdmin_notManager (by simp [State.setTx, hf]) (by exact hm)]
      rfl

end Sys2Proof.Safety
end

section
/-! SUPPORT. What an event returns, as the statements say it, and the writes of LINKCTRL (O36, O37). -/

namespace Sys2Proof.Safety

open Sys2Proof.Machine

/-! ### Returns -/

section
variable {s t : State} {x : LinkId}

theorem Returns.congr {cs fs : List RecId} {more : Bool} {back : Returned} (h : Returns t cs fs more back)
    (hr : ∀ n, t.record n = s.record n) : Returns s cs fs more back := by
  simpa only [Returns, hr] using h

theorem cells_returnedBy (s : State) (n : RecId) :
    (s.returnedBy n).cells = true ↔ ∃ r, s.record n = some r ∧ r.cells ≠ [] := by
  unfold State.returnedBy
  cases s.record n <;> simp

theorem mem_falls_returnedBy (s : State) (n : RecId) (q : QueueId) :
    q ∈ (s.returnedBy n).falls ↔ ∃ r, s.record n = some r ∧ r.target = .queue q := by
  unfold State.returnedBy
  cases s.record n with
  | none => simp
  | some r => cases h : r.target <;> simp [Target.classes, h, eq_comm]

/-- Several records discarded as one event return what they hold (R20). -/
theorem returns_many (s : State) (ns : List RecId) : Returns s ns ns false (s.returnedByMany ns) := by
  refine ⟨?_, fun q => ?_⟩
  · induction ns with
    | nil => simp [State.returnedByMany]
    | cons n ns ih =>
      have e : (s.returnedByMany (n :: ns)).cells = ((s.returnedBy n).cells || (s.returnedByMany ns).cells) := rfl
      rw [e, Bool.or_eq_true, ih, cells_returnedBy]
      simp
  · induction ns with
    | nil => simp [State.returnedByMany]
    | cons n ns ih =>
      have e : (s.returnedByMany (n :: ns)).falls = (s.returnedBy n).falls ++ (s.returnedByMany ns).falls := rfl
      rw [e, List.mem_append, ih, mem_falls_returnedBy]
      simp

/-- Returns of one event beside each other. -/
theorem Returns.and {cs fs cs' fs' : List RecId} {m m' : Bool} {a b : Returned} (h : Returns s cs fs m a)
    (g : Returns s cs' fs' m' b) : Returns s (cs ++ cs') (fs ++ fs') (m || m') (a.and b) := by
  obtain ⟨h1, h2⟩ := h
  obtain ⟨g1, g2⟩ := g
  refine ⟨?_, fun q => ?_⟩
  · simp only [Returned.and, Bool.or_eq_true, h1, g1, List.mem_append]
    constructor
    · rintro ((hm | ⟨n, hn, hr⟩) | hm | ⟨n, hn, hr⟩)
      · exact .inl (.inl hm)
      · exact .inr ⟨n, .inl hn, hr⟩
      · exact .inl (.inr hm)
      · exact .inr ⟨n, .inr hn, hr⟩
    · rintro ((hm | hm) | ⟨n, hn | hn, hr⟩)
      · exact .inl (.inl hm)
      · exact .inr (.inl hm)
      · exact .inl (.inr ⟨n, hn, hr⟩)
      · exact .inr (.inr ⟨n, hn, hr⟩)
  · simp only [Returned.and, List.mem_append, h2, g2]
    constructor
    · rintro (⟨n, hn, hr⟩ | ⟨n, hn, hr⟩)
      · exact ⟨n, .inl hn, hr⟩
      · exact ⟨n, .inr hn, hr⟩
    · rintro ⟨n, hn | hn, hr⟩
      · exact .inl ⟨n, hn, hr⟩
      · exact .inr ⟨n, hn, hr⟩

/-- A reserved list that comes back. -/
theorem returns_reserved (s : State) (m : Bool) : Returns s [] [] m { cells := m, falls := [] } := by
  refine ⟨by simp, fun q => by simp⟩

theorem returns_inbound (s : State) (x : LinkId) :
    Returns s (s.slot (.link x)).toList (s.slot (.link x)).toList false (s.inboundReturned x) := by
  unfold State.inboundReturned
  cases s.slot (.link x) with
  | none => exact returns_reserved s false
  | some n =>
    refine ⟨?_, fun q => ?_⟩
    · simp [cells_returnedBy]
    · simp [mem_falls_returnedBy]

/-- What a link gives up: its inbound record and its reserved list (R157, R160). -/
theorem returns_link (s : State) (x : LinkId) :
    Returns s (s.slot (.link x)).toList (s.slot (.link x)).toList (!(s.link x).reserved.isEmpty)
      ((s.inboundReturned x).and (s.reservedReturned x)) := by
  have h := (returns_inbound s x).and (returns_reserved s (!(s.link x).reserved.isEmpty))
  rw [List.append_nil, Bool.false_or] at h
  exact h

/-! ### What a link gives up -/

/-- The inbound record of a link discarded. -/
def withoutInbound (s : State) (x : LinkId) : State :=
  match s.slot (.link x) with
  | none => s
  | some n => s.discardOne n

theorem closeInbound_eq (s : State) (x : LinkId) :
    s.closeInbound x =
      (withoutInbound s x).setLink x { (withoutInbound s x).link x with isOpen := false, hdr := [] } := rfl

/-- The link after its inbound record is discarded: only the record it sent may be gone (R19). -/
theorem withoutInbound_link (s : State) (x : LinkId) :
    ∃ o, (withoutInbound s x).link x = { s.link x with sending := o } := by
  unfold withoutInbound
  cases s.slot (.link x) with
  | none => exact ⟨_, rfl⟩
  | some n =>
    cases hr : s.record n with
    | none => exact ⟨_, by simp only [State.discardOne_none hr]; rfl⟩
    | some r =>
      simp only
      rw [discardOne_link s n x (by simp [hr]), dropSendingOf_eq]
      split
      · exact ⟨_, rfl⟩
      · exact ⟨_, rfl⟩

/-- The inbound message closed and the reserved list returned after its cells (R33, R157, R160). -/
theorem closeInbound_returnAll (s : State) (x : LinkId) :
    (s.closeInbound x).returnAll x =
      (((withoutInbound s x).setFree ((withoutInbound s x).free ++ (s.link x).reserved)).setUsed (.link x)
            ((withoutInbound s x).used (.link x) - (s.link x).reserved.length)).setLink
        x { (withoutInbound s x).link x with isOpen := false, hdr := [], reserved := [], pendingGrants := 0 } := by
  obtain ⟨o, e⟩ := withoutInbound_link s x
  have hres : ((withoutInbound s x).link x).reserved = (s.link x).reserved := by rw [e]
  rw [closeInbound_eq, ← hres]
  generalize withoutInbound s x = c
  simp only [State.returnAll, State.setLink_link, if_true, State.setLink_free, State.setLink_used]
  simp only [State.setFree, State.setUsed, State.setLink, vset_vset]

end

/-! ### Writes of LINKCTRL -/

section
variable {s : State} {k : PortId} {index v0 v1 v2 b : Byte} {early : Bool}

theorem exec_linkEnable (hb : s.byteStep k b = .linkEnable) (h : WritesItem s k 0x07 index v0 v1 v2) (hm : Manages s k) :
    exec (.linkEnable k b early) s =
      writeOutcome s k early (fun a => s.enableCtrl a.1 a.2) (linkCtrlCheck ⟨0x07, index, v0, v1, v2, b⟩) :=
  (if_pos hb).trans (manages_write h hm rfl linkCtrlCheck _)

theorem exec_linkDisable (hb : s.byteStep k b = .linkDisable) (h : WritesItem s k 0x07 index v0 v1 v2) (hm : Manages s k) :
    exec (.linkDisable k b early) s =
      writeOutcome s k early (fun a => s.disableCtrl a.1 a.2) (linkCtrlCheck ⟨0x07, index, v0, v1, v2, b⟩) :=
  (if_pos hb).trans (manages_write h hm rfl linkCtrlCheck _)

theorem exec_ctrlWrite (hb : s.byteStep k b = .writeItem) (h : WritesItem s k 0x07 index v0 v1 v2) (hm : Manages s k) :
    exec (.writeItem k b early) s =
      writeOutcome s k early (fun a => s.writeCtrl a.1 a.2) (linkCtrlCheck ⟨0x07, index, v0, v1, v2, b⟩) := by
  rw [exec_writeItem hb, itemWrite_of h, judgeWrite_manages hm rfl]
  rfl

/-- A LINKCTRL value with a field or its index out of range (R138). -/
theorem linkCtrlCheck_range
    (h : 1 < index.toNat ∨ 0x1F < v0.toNat ∨ 1 < v0.toNat % 16 ∨ 4 < v1.toNat ∨ v2 = 0 ∨ 16 < v2.toNat ∨ b = 0 ∨
      7 < b.toNat) :
    linkCtrlCheck ⟨0x07, index, v0, v1, v2, b⟩ = .error .range := by
  unfold linkCtrlCheck
  by_cases hi : 1 < index.toNat
  · rw [linkOfByte_none (by exact hi)]
  · have hc : ItemWrite.linkCtrl ⟨0x07, index, v0, v1, v2, b⟩ = none := by
      refine if_neg ?_
      simp only [enableField, autoRestartField]
      rintro ⟨h1, h2, h3, h4, h5, h6, h7⟩
      rcases h with h | h | h | h | h | h | h | h
      · exact hi h
      · omega
      · omega
      · omega
      · rw [h] at h4; simp at h4
      · omega
      · rw [h] at h6; simp at h6
      · omega
    rw [hc]
    cases linkOfByte index <;> rfl

/-- The two fields of v0 of a LINKCTRL value (11.7). -/
theorem ctrlByte_fields (en auto : Bool) :
    enableField ((if en then 0x10 else 0x00) + (if auto then 0x01 else 0x00)) = (if en then 1 else 0) ∧
      autoRestartField ((if en then 0x10 else 0x00) + (if auto then 0x01 else 0x00)) = (if auto then 1 else 0) := by
  cases en <;> cases auto <;> decide

/-- The item that a LINKCTRL value in range spells (11.7). -/
theorem linkCtrlCheck_of (x : LinkId) (en auto : Bool) (h1 : v1.toNat ≤ 4) (h2 : 1 ≤ v2.toNat) (h3 : v2.toNat ≤ 16)
    (h4 : 1 ≤ b.toNat) (h5 : b.toNat ≤ 7) :
    linkCtrlCheck ⟨0x07, BitVec.ofNat 8 x.val, (if en then 0x10 else 0x00) + (if auto then 0x01 else 0x00), v1, v2, b⟩ =
      .ok (x, { enable := en, autoRestart := auto, rate := v1.toNat, window := v2.toNat, resendLimit := b.toNat }) := by
  obtain ⟨e1, e2⟩ := ctrlByte_fields en auto
  have hc : ItemWrite.linkCtrl
      ⟨0x07, BitVec.ofNat 8 x.val, (if en then 0x10 else 0x00) + (if auto then 0x01 else 0x00), v1, v2, b⟩ =
        some { enable := en, autoRestart := auto, rate := v1.toNat, window := v2.toNat, resendLimit := b.toNat } := by
    unfold ItemWrite.linkCtrl
    simp only [e1, e2]
    rw [if_pos ⟨by split <;> omega, by split <;> omega, h1, h2, h3, h4, h5⟩]
    cases en <;> cases auto <;> rfl
  simp only [linkCtrlCheck, linkOfByte_ofNat, hc]

/-- Which of the three a LINKCTRL write is (R160). -/
theorem byteStep_ctrl (x : LinkId) (en auto : Bool)
    (h : WritesItem s k 0x07 (BitVec.ofNat 8 x.val) ((if en then 0x10 else 0x00) + (if auto then 0x01 else 0x00)) v1 v2) :
    s.byteStep k b =
      if en = true ∧ (s.link x).ctrl.enable = false then .linkEnable
      else if en = false ∧ (s.link x).ctrl.enable = true then .linkDisable
      else .writeItem := by
  rw [byteStep_writes h, byteStep_linkCtrl rfl (linkOfByte_ofNat x)]
  simp only [ctrlByte_fields]
  cases en <;> simp

end

/-- Settles O36: RANGE, or the write of each kind. -/
theorem linkCtrlWrites : Obligations.LinkCtrlWrites := by
  intro k index v0 v1 v2 b early s h hm
  refine ⟨fun c hr hc => ?_, fun x en auto hi hv0 h1 h2 h3 h4 h5 => ?_⟩
  · have hcheck := linkCtrlCheck_range hr
    have hb := byteStep_writes h b
    have hsteps : s.byteStep k b = .writeItem ∨ s.byteStep k b = .linkEnable ∨ s.byteStep k b = .linkDisable := by
      rw [hb]
      show s.linkCtrlStep _ = _ ∨ s.linkCtrlStep _ = _ ∨ s.linkCtrlStep _ = _
      unfold State.linkCtrlStep
      split
      · exact .inl rfl
      · split
        · exact .inr (.inl rfl)
        · split
          · exact .inr (.inr rfl)
          · exact .inl rfl
    rcases hsteps with e | e | e <;> rw [e] at hc <;> cases hc
    · rw [exec_ctrlWrite e h hm, hcheck]; rfl
    · rw [exec_linkEnable e h hm, hcheck]; rfl
    · rw [exec_linkDisable e h hm, hcheck]; rfl
  · subst hi hv0
    have hcheck := linkCtrlCheck_of x en auto h1 h2 h3 h4 h5
    have hb := byteStep_ctrl (b := b) x en auto h
    refine ⟨fun he => ?_, fun he hen => ?_, fun he hen => ?_⟩
    · have hstep : s.byteStep k b = .writeItem := by
        rw [hb, ← he]; cases en <;> rfl
      rw [exec_ctrlWrite hstep h hm, hcheck]
      rfl
    · subst hen
      have hstep : s.byteStep k b = .linkEnable := by rw [hb, he]; rfl
      rw [exec_linkEnable hstep h hm, hcheck]
      simp only [writeOutcome, State.enableCtrl, State.setCtrl, State.setLink_link, if_true]
      split <;> simp [Link.toStart]
    · subst hen
      have hstep : s.byteStep k b = .linkDisable := by rw [hb, he]; rfl
      rw [exec_linkDisable hstep h hm, hcheck]
      have hst : ((s.finish x).link x).state = (s.link x).state := (onlyAccounts_finish s x).state x
      refine ⟨fun hl => ?_, fun hl => ?_, fun hl => ?_⟩ <;> replace hl : (s.link x).state = _ := hl <;> rw [← hst] at hl <;>
        simp only [writeOutcome, State.disableCtrl, State.disableLink, State.setCtrl, State.setLink_link, if_true, hl,
          State.setLink_setLink]

/-- The disable of an ACTIVE link, in the order of the model's reading (R160, log 14). -/
theorem disableLink_active {s : State} {x : LinkId} (h : (s.link x).state = .active) :
    s.disableLink x =
      ((fun c : State =>
              (((c.setFree (c.free ++ ((s.disableSending x).link x).reserved)).setUsed (.link x)
                      (c.used (.link x) - ((s.disableSending x).link x).reserved.length)).setLink
                  x
                    { c.link x with
                      isOpen := false, hdr := [], reserved := [], pendingGrants := 0, state := .off, credit := 0, settle := 0,
                      silence := false }).raiseMgr
                (.linkDown x))
            (withoutInbound (s.disableSending x) x)).passOn
        s ((s.inboundReturned x).and (s.reservedReturned x)) := by
  unfold State.disableLink
  rw [h]
  simp only [closeInbound_returnAll, State.setLink_link, if_true, State.setLink_setLink, State.raiseDown]

theorem withoutInbound_of_slot {s u : State} {x : LinkId} (h : u.slot (.link x) = s.slot (.link x)) :
    withoutInbound u x =
      match s.slot (.link x) with
      | none => u
      | some n => u.discardOne n := by
  unfold withoutInbound
  rw [h]

/-- Settles O37: what the link gives up is returned and passed on. -/
theorem linkDisableFromActive : Obligations.LinkDisableFromActive := by
  intro k index v0 v1 v2 b early x auto s h hm hi hv0 h1 h2 h3 h4 h5 he hst u l s0 closed
  have hu : OnlyAccounts s u := onlyAccounts_finish s x
  have hv : (if auto then (0x01 : Byte) else 0x00) = (if false = true then 0x10 else 0x00) + (if auto then 0x01 else 0x00) := by
    cases auto <;> rfl
  rw [hv] at hv0
  subst hi hv0
  have hstep : s.byteStep k b = .linkDisable := by rw [byteStep_ctrl (b := b) x false auto h, he]; rfl
  have hslot : s0.slot (.link x) = s.slot (.link x) := hu.slot _
  have hrec : ∀ n, s0.record n = s.record n := fun n => hu.record n
  have hl : s0.link x = l := by simp [s0]
  have hact : (s0.link x).state = .active := by rw [hl]; exact (hu.state x).trans hst
  have hback : Returns s (s.slot (.link x)).toList (s.slot (.link x)).toList (!l.reserved.isEmpty)
      ((s0.inboundReturned x).and (s0.reservedReturned x)) := by
    rw [← hslot, ← hl]
    exact (returns_link s0 x).congr hrec
  have key : exec (.linkDisable k b early) s =
      answered k early 0x01
        (((closed (s0.disableSending x)).raiseMgr (.linkDown x)).passOn s0
          ((s0.inboundReturned x).and (s0.reservedReturned x))) := by
    rw [exec_linkDisable hstep h hm, linkCtrlCheck_of x false auto h1 h2 h3 h4 h5]
    obtain ⟨o, due, hd, -⟩ := disableSending_link s0 x
    have hres : ((s0.disableSending x).link x).reserved = l.reserved := by rw [hd, ← hl]
    show answered k early 0x01 (s0.disableLink x) = _
    rw [disableLink_active hact, withoutInbound_of_slot ((disableSending_slot s0 x _).trans hslot), hres] <;> rfl
  constructor
  · intro hn
    refine ⟨_, hback, key.trans ?_⟩
    have hk : s0.disableSending x = s0 := by
      unfold State.disableSending
      rw [hl]
      rcases hn with hn | ⟨n, hn⟩ <;> rw [hn]
      rfl
    rw [hk]
  · intro sd r hsd hp hr
    refine ⟨_, hback, key.trans ?_⟩
    have hk : s0.disableSending x =
        (s0.setRecord sd.recId (some { r with state := .queued })).setLink x { l with sending := none, abmDue := true } := by
      have hrs : s0.setRecState sd.recId .queued = s0.setRecord sd.recId (some { r with state := .queued }) := by
        unfold State.setRecState
        rw [hrec, hr]
      unfold State.disableSending
      rw [hl, hsd]
      simp only [hp, if_false, hrs]
    rw [hk]

end Sys2Proof.Safety
end

section
/-! SUPPORT. The step, the state after power-on reset, service order and the symbol code (O1 to O5, O23, O50). -/

namespace Sys2Proof.Safety

open Sys2Proof.Machine

/-- Settles O1: the two cases of the queue. -/
theorem stepRunsFront : Obligations.StepRunsFront := by
  refine ⟨fun c rest s h => ?_, fun s h => ?_⟩ <;> unfold step <;> rw [h]

/-! ### After power-on reset -/

theorem reset_record (n : RecId) : State.reset.record n = none := vget_replicate _ _
theorem reset_slot (p : Party) : State.reset.slot p = none := vget_replicate _ _
theorem reset_link (x : LinkId) : State.reset.link x = Link.reset := vget_replicate _ _
theorem reset_qclass (q : QueueId) : State.reset.qclass q = { recs := [], reserved := 0, depth := 8 } := vget_replicate _ _
theorem reset_used (p : Party) : State.reset.used p = 0 := vget_replicate _ _
theorem reset_guar (p : Party) : State.reset.guar p = 32 := vget_replicate _ _
theorem reset_lim (p : Party) : State.reset.lim p = 256 := vget_replicate _ _
theorem reset_run (p : Party) : State.reset.run p = 0 := vget_replicate _ _

theorem reset_port (k : PortId) : State.reset.port k = Port.reset (BitVec.ofNat 8 (0xF0 + k.val)) := by
  rcases port_cases k with rfl | rfl | rfl | rfl <;> rfl

theorem reset_sumGuarantee : State.reset.sumGuarantee = 192 := by decide
theorem reset_sharedUsage : State.reset.sharedUsage = 0 := by decide

theorem reset_sharedCapacity : State.reset.sharedCapacity = 320 := by
  rw [State.sharedCapacity, reset_sumGuarantee]; rfl

theorem reset_headroom (p : Party) : State.reset.headroom p = 256 := by
  rw [State.headroom, reset_lim, reset_used, reset_guar, reset_sharedCapacity, reset_sharedUsage]
  rfl

theorem reset_free : State.reset.free = List.finRange 512 := by simp only [State.reset, allCells]

theorem reset_freeCount : State.reset.free.length = 512 := by rw [reset_free, List.length_finRange]

theorem reset_querySnapshot (k : PortId) :
    State.reset.querySnapshot k = [0x01, 0x00, 0x00, 0x00, 0x00, 0x00, 0xFF, 0xFF, 0x00, 0x00, 0x02, 0x00] := by
  have hloan : State.reset.loanId k = 0xFF := by rw [State.loanId, reset_port]; rfl
  rw [State.querySnapshot, reset_headroom, reset_used, reset_qclass, reset_qclass, hloan, reset_link, reset_link, reset_freeCount]
  rfl

theorem reset_attention (k : PortId) : State.reset.attention k = false := by
  have h : vget State.reset.ports k = Port.reset (BitVec.ofNat 8 (0xF0 + k.val)) := reset_port k
  have hm : (State.reset.manager == some k) = false := rfl
  rw [State.attention, h, hm]
  simp [Port.reset]

theorem reset_summary (k : PortId) : State.reset.summary k = 0x00 := by
  have hm : (State.reset.manager == some k) = false := rfl
  rw [State.summary, reset_attention, reset_qclass, reset_qclass, reset_port, hm]
  show byteOf false false false false false false = 0x00
  decide

/-- Settles O2: each figure at reset. -/
theorem resetStoreAndAccounts : Obligations.ResetStoreAndAccounts := by
  refine ⟨reset_free, reset_freeCount, fun x => by rw [reset_link]; rfl, reset_record, reset_slot, ?_, fun k => ?_,
    fun p => ⟨reset_guar p, reset_lim p, reset_used p, reset_headroom p⟩, reset_sumGuarantee, reset_sharedCapacity,
    reset_sharedUsage, fun k => ?_, fun k => ?_⟩
  · decide +kernel
  · rw [reset_querySnapshot]; rfl
  · rw [reset_port]; rfl
  · rw [reset_querySnapshot]; rfl

/-- Settles O3: the router, the classes and the UQ at reset. -/
theorem resetRouterAndQueues : Obligations.ResetRouterAndQueues := by
  refine ⟨by decide, fun q => ?_, by decide, fun p => ⟨vget_replicate _ _, reset_run p⟩, rfl, rfl, by decide +kernel,
    fun k => ?_, fun k => ?_⟩
  · rw [reset_qclass]; exact ⟨rfl, rfl, rfl, rfl⟩
  · rw [reset_summary]; exact ⟨rfl, rfl⟩
  · rw [reset_querySnapshot]; rfl

/-- Settles O4: the ports, the role and the links at reset. -/
theorem resetPortsAndLinks : Obligations.ResetPortsAndLinks := by
  refine ⟨fun k => ?_, rfl, rfl, rfl, fun x => ?_⟩
  · have hsn : State.reset.takeSnapshot k = { host := 0, hostLate := 0, mgr := none } := by
      rw [State.takeSnapshot, reset_port]; rfl
    rw [reset_port, reset_attention, reset_summary, reset_slot, reset_querySnapshot, hsn]
    exact ⟨rfl, rfl, rfl, rfl, rfl, rfl, rfl, rfl, nofun, rfl, rfl, rfl, rfl, rfl, rfl, rfl, rfl, rfl, rfl, rfl⟩
  · have hquiet : State.reset.lineQuiet x = true := by rw [State.lineQuiet, reset_link]; rfl
    have hctrl : State.reset.itemValue 0x07 (BitVec.ofNat 8 x.val) = some [0x00, 0x00, 0x08, 0x03] := by
      show (linkOfByte _).map _ = _
      rw [linkOfByte_ofNat, Option.map_some, reset_link]
      rfl
    have hstate : State.reset.itemValue 0x11 (BitVec.ofNat 8 x.val) = some [0, 0, 0, 0] := by
      show (linkOfByte _).map _ = _
      rw [linkOfByte_ofNat, Option.map_some, reset_link]
      rfl
    rw [reset_link]
    exact ⟨rfl, rfl, rfl, rfl, rfl, rfl, rfl, rfl, rfl, rfl, rfl, rfl, rfl, rfl, rfl, rfl, rfl, reset_slot _, hquiet, hctrl,
      hstate⟩

/-- Settles O5: the select pins, the bytes and the model's own fields alone stand. -/
theorem powerOnReset : Obligations.PowerOnReset := by
  intro s
  refine ⟨_, rfl, rfl, fun k => ?_⟩
  rcases port_cases k with rfl | rfl | rfl | rfl <;> rfl

/-! ### Service order -/

/-- Settles O23: the four cases of the two classes. -/
theorem serviceOrder : Obligations.ServiceOrder := by
  intro d s
  refine ⟨fun e rest he hb => ?_, fun e rest he hb hr => ?_, fun b rest hb h => ?_, fun he hb => ?_⟩
  · simp only [State.choice, he, hb]
  · obtain ⟨b, rest', hb⟩ := List.exists_cons_of_ne_nil hb
    simp only [State.choice, he, hb, if_pos hr]
  · cases he : (s.qclass { dest := d, cls := .express }).recs with
    | nil => simp only [State.choice, he, hb]
    | cons e rest' =>
      rcases h with h | h
      · rw [he] at h; cases h
      · simp only [State.choice, he, hb, if_neg (Nat.not_lt.mpr h)]
  · simp only [State.choice, he, hb]

/-! ### The symbol code -/

theorem oddOnes_eq (w : SymbolWord) :
    oddOnes w =
      (w.getLsbD 0 ^^ w.getLsbD 1 ^^ w.getLsbD 2 ^^ w.getLsbD 3 ^^ w.getLsbD 4 ^^ w.getLsbD 5 ^^ w.getLsbD 6 ^^ w.getLsbD 7 ^^
        w.getLsbD 8 ^^ w.getLsbD 9) := by
  simp [oddOnes, List.range, List.range.loop]

/-- One bit turned turns the parity (R148). -/
theorem oddOnes_turned (w : SymbolWord) (i : Fin 10) : oddOnes (w ^^^ BitVec.twoPow 10 i.val) = !oddOnes w := by
  simp only [oddOnes_eq, BitVec.getLsbD_xor, BitVec.getLsbD_twoPow]
  fin_cases i <;> simp

theorem oddOnes_of_decode {w : SymbolWord} (h : decodeSymbol w ≠ none) : oddOnes w = true := by
  cases ho : oddOnes w with
  | true => rfl
  | false => exact absurd (if_pos ho) h

/-- A symbol's word with its parity bit clear (11.8). -/
def bareBits (control : Bool) (value : Byte) : SymbolWord := BitVec.ofBool control ++ value ++ 0#1

theorem bareBits_getLsbD (c : Bool) (v : Byte) (i : Nat) (h : i < 10) :
    (bareBits c v).getLsbD i = if i = 0 then false else if i < 9 then v.getLsbD (i - 1) else c := by
  rw [bareBits, BitVec.getLsbD_append, BitVec.getLsbD_append]
  by_cases h0 : i = 0
  · simp [h0]
  · by_cases h9 : i < 9
    · simp [h0, h9, show ¬ i < 1 by omega, show i - 1 < 8 by omega]
    · obtain rfl : i = 9 := by omega
      simp

/-- A symbol's word is the bare one or that with its parity bit turned, whichever has odd ones (R148). -/
theorem symbolBits_eq (c : Bool) (v : Byte) :
    symbolBits c v = if oddOnes (bareBits c v) then bareBits c v else bareBits c v ^^^ BitVec.twoPow 10 0 := by
  have h : bareBits c v ||| 1 = bareBits c v ^^^ BitVec.twoPow 10 0 := by
    refine BitVec.eq_of_getLsbD_eq fun i hi => ?_
    rw [BitVec.getLsbD_or, BitVec.getLsbD_xor, BitVec.getLsbD_twoPow, bareBits_getLsbD c v i hi,
      show (1 : SymbolWord) = 1#10 from rfl, BitVec.getLsbD_one]
    by_cases h0 : i = 0
    · simp [h0]
    · simp [h0, Ne.symm h0]
  rw [← h]
  rfl

theorem symbolBits_getLsbD (c : Bool) (v : Byte) (i : Nat) (h : i < 10) (h0 : i ≠ 0) :
    (symbolBits c v).getLsbD i = if i < 9 then v.getLsbD (i - 1) else c := by
  have hb := bareBits_getLsbD c v i h
  rw [if_neg h0] at hb
  rw [symbolBits_eq]
  split
  · exact hb
  · rw [BitVec.getLsbD_xor, BitVec.getLsbD_twoPow, hb]
    simp [Ne.symm h0]

theorem oddOnes_symbolBits (c : Bool) (v : Byte) : oddOnes (symbolBits c v) = true := by
  rw [symbolBits_eq]
  split
  · assumption
  · rename_i h
    have := oddOnes_turned (bareBits c v) 0
    simpa [h] using this

theorem value_symbolBits (c : Bool) (v : Byte) : (symbolBits c v).extractLsb' 1 8 = v := by
  refine BitVec.eq_of_getLsbD_eq fun i hi => ?_
  rw [BitVec.getLsbD_extractLsb', symbolBits_getLsbD c v _ (by omega) (by omega), if_pos (by omega), Nat.add_sub_cancel_left]
  simp [hi]

/-- Two words with odd ones that agree but for the parity bit are the same (R148). -/
theorem eq_of_oddOnes {w w' : SymbolWord} (h : oddOnes w = oddOnes w') (hb : ∀ i, 0 < i → i < 10 → w.getLsbD i = w'.getLsbD i) :
    w = w' := by
  refine BitVec.eq_of_getLsbD_eq fun i hi => ?_
  cases i with
  | succ j => exact hb _ (Nat.succ_pos j) hi
  | zero =>
    simp (disch := decide) only [oddOnes_eq, hb, Bool.xor_left_inj] at h
    exact h

/-- A word with odd ones is that of its kind bit and its value (R148). -/
theorem symbolBits_of_odd {w : SymbolWord} (h : oddOnes w = true) : symbolBits (w.getLsbD 9) (w.extractLsb' 1 8) = w := by
  refine eq_of_oddOnes ((oddOnes_symbolBits _ _).trans h.symm) fun i h0 hi => ?_
  rw [symbolBits_getLsbD _ _ i hi (by omega)]
  split
  · rw [BitVec.getLsbD_extractLsb', Nat.add_sub_cancel' h0]
    simp [show i - 1 < 8 by omega]
  · rw [show i = 9 by omega]

theorem decodeSymbol_data (v : Byte) : decodeSymbol (symbolBits false v) = some (.data v) := by
  have hk : (symbolBits false v).getLsbD 9 = false := symbolBits_getLsbD _ _ 9 (by decide) (by decide)
  unfold decodeSymbol
  simp only [oddOnes_symbolBits, value_symbolBits, hk, Bool.true_eq_false, if_false, if_true]

theorem decodeSymbol_control (code : BitVec 4) : decodeSymbol (symbolBits true (controlValue code)) = controlSymbol code := by
  have hc : (controlValue code).extractLsb' 0 4 = code := by revert code; decide
  have hk : (symbolBits true (controlValue code)).getLsbD 9 = true := symbolBits_getLsbD _ _ 9 (by decide) (by decide)
  unfold decodeSymbol
  simp only [oddOnes_symbolBits, value_symbolBits, hk, hc, Bool.true_eq_false, if_false, if_true]

theorem decodeSymbol_encode (sym : Symbol) : decodeSymbol (encodeSymbol sym) = some sym := by
  cases sym with
  | data b => exact decodeSymbol_data b
  | fill => exact decodeSymbol_control 1
  | grant => exact decodeSymbol_control 2
  | eom => exact decodeSymbol_control 3
  | abm => exact decodeSymbol_control 4

/-- The value of a control symbol's code (11.8). -/
theorem encodeSymbol_control {code : BitVec 4} {sym : Symbol} (h : controlSymbol code = some sym) :
    encodeSymbol sym = symbolBits true (controlValue code) := by
  unfold controlSymbol at h
  split_ifs at h with h1 h2 h3 h4 <;> cases h
  · rw [h1]; rfl
  · rw [h2]; rfl
  · rw [h3]; rfl
  · rw [h4]; rfl

theorem encodeSymbol_decode {w : SymbolWord} {sym : Symbol} (h : decodeSymbol w = some sym) : encodeSymbol sym = w := by
  have ho : oddOnes w = true := oddOnes_of_decode (by rw [h]; nofun)
  have hw := symbolBits_of_odd ho
  unfold decodeSymbol at h
  simp only [ho, Bool.true_eq_false, if_false] at h
  split_ifs at h with hk hc
  · cases h
    rw [hk] at hw
    exact hw
  · rw [encodeSymbol_control h, ← hc]
    rw [Bool.eq_true_of_not_eq_false hk] at hw
    exact hw

/-- Settles O50: the words of the manual, both directions of the code, and a turned bit. -/
theorem symbolCode : Obligations.SymbolCode := by
  refine ⟨by decide, by decide, by decide, by decide, by decide, by decide, by decide, by decide, by decide, by decide,
    decodeSymbol_encode, fun w sym => encodeSymbol_decode, fun w i h => ?_⟩
  have ho : oddOnes (w ^^^ BitVec.twoPow 10 i.val) = false := by rw [oddOnes_turned, oddOnes_of_decode h]; rfl
  exact if_pos ho

end Sys2Proof.Safety
end

section
/-! SUPPORT. The link transmitter's commands (O42, O43, O44). -/

namespace Sys2Proof.Safety

open Sys2Proof.Machine

/-! ### What the next symbol may be -/

section
variable {l : Link}

theorem boundaryFree_iff :
    l.boundaryFree = true ↔ l.abmDue = false ∧ ∀ sd, l.sending = some sd → sd.progress ≠ .eomBegun := by
  unfold Link.boundaryFree Link.eomBegun
  cases l.sending with
  | none => simp
  | some sd => simp

theorem working_iff : l.working = true ↔ l.state = .active ∧ l.settle = 0 ∧ l.boundaryFree = true := by
  simp [Link.working, and_assoc]

theorem frameTime_iff :
    l.frameTime = true ↔ l.state = .active ∧ l.settle = 0 ∧ l.boundaryFree = true ∧ l.pendingGrants = 0 := by
  simp [Link.frameTime, working_iff, and_assoc]

/-- The control byte as a sum of its two fields (11.4). -/
theorem controlByte_sum (c : MsgClass) (h : BitVec 4) :
    controlByte c h = (if c = .bulk then 0x80 else 0x00) + BitVec.ofNat 8 h.toNat := by
  revert h
  cases c <;> decide

/-- A payload byte waits for credit where it opens a cell and none is held (R167). -/
theorem waitsForCredit_payload {n : RecId} {j : Nat} (h : l.sending = some { recId := n, progress := .payload j }) :
    l.waitsForCredit = true ↔ j % 32 = 0 ∧ l.credit = 0 := by
  simp [Link.waitsForCredit, h, Config.cellBytes]

end

section
variable {s : State} {x : LinkId}

/-- The header bytes by their place (R164, R165). -/
theorem headerByte_of (r : Record) {i : Nat} {v : Byte}
    (h : (i, v) ∈
      [(1, r.dstAddr), (2, r.srcAddr),
        (3, (if r.cls = .bulk then (0x80 : Byte) else 0x00) + BitVec.ofNat 8 (r.hops - 1).toNat),
        (4, r.tag), (5, hiByte r.length), (6, loByte r.length)]) :
    r.headerByte i = v ∧ i ≤ 6 := by
  simp only [List.mem_cons, Prod.mk.injEq, List.not_mem_nil, or_false] at h
  rcases h with ⟨rfl, rfl⟩ | ⟨rfl, rfl⟩ | ⟨rfl, rfl⟩ | ⟨rfl, rfl⟩ | ⟨rfl, rfl⟩ | ⟨rfl, rfl⟩
  · exact ⟨rfl, by decide⟩
  · exact ⟨rfl, by decide⟩
  · exact ⟨controlByte_sum r.cls (r.hops - 1), by decide⟩
  · exact ⟨rfl, by decide⟩
  · exact ⟨rfl, by decide⟩
  · exact ⟨rfl, by decide⟩

theorem payloadAddr_of {r : Record} {j : Nat} {c : CellId} (h : r.cells[j / 32]? = some c) :
    r.payloadAddr j = some (c.val * 32 + j % 32) := by
  rw [Record.payloadAddr, show r.cells[j / Config.cellBytes]? = some c from h]
  rfl

theorem payload_of_cell {r : Record} {j : Nat} {c : CellId} (h : r.cells[j / 32]? = some c) :
    s.payload r j = s.mem.read (c.val * 32 + j % 32) := by
  rw [State.payload, payloadAddr_of h]

theorem frameSymbol_eq {sd : Sending} {r : Record} (ht : (s.link x).frameTime = true) (hs : (s.link x).sending = some sd)
    (hr : s.record sd.recId = some r) : s.frameSymbol x = some (sd, r) := by
  rw [State.frameSymbol, if_pos ht, hs]
  simp only [hr, Option.map_some]

/-! ### The transmitter's choice -/

theorem transmitterChoose_stands
    (h : (s.link x).state ≠ .active ∨ (s.link x).settle ≠ 0 ∨ (s.link x).sending ≠ none ∨ (s.link x).abmDue = true ∨
      s.choice (.link x) = none) : s.transmitterChoose x = s := by
  rcases s.transmitterChoose_cases x with e | ⟨n, c, k, hc, h1, h2, h3, h4, -⟩
  · exact e
  · rcases h with h | h | h | h | h
    · exact absurd h1 h
    · exact absurd h2 h
    · exact absurd h3 h
    · rw [h4] at h; cases h
    · rw [hc] at h; cases h

theorem transmitterChoose_chooses {n : RecId} {c : MsgClass} {k : Nat} {r : Record} (h1 : (s.link x).state = .active)
    (h2 : (s.link x).settle = 0) (h3 : (s.link x).sending = none) (h4 : (s.link x).abmDue = false)
    (hc : s.choice (.link x) = some (n, c, k)) (hr : s.record n = some r) :
    s.transmitterChoose x =
      ((s.setRun (.link x) k).setRecord n (some { r with state := .sending })).setLink x
        { s.link x with sending := some { recId := n, progress := .header 1 } } := by
  have hset : (s.setRun (.link x) k).setRecState n .sending =
      (s.setRun (.link x) k).setRecord n (some { r with state := .sending }) := by
    unfold State.setRecState
    rw [show (s.setRun (.link x) k).record n = some r from hr]
  unfold State.transmitterChoose
  simp only [h1, h2, h3, h4, hc, and_self, if_true, hset]

/-! ### FILL -/

theorem exec_sendFill_start (hb : (s.link x).boundaryFree = true) (hs : (s.link x).state = .start) :
    exec (.sendFill x) s = .next (s.startFill x).resume :=
  (if_pos hb).trans (by rw [hs])

theorem exec_sendFill_quiet (hb : (s.link x).boundaryFree = true) (hs : (s.link x).state = .off ∨ (s.link x).state = .hold) :
    exec (.sendFill x) s = .next s.resume :=
  (if_pos hb).trans (by rcases hs with hs | hs <;> rw [hs])

theorem exec_sendFill_settle (hb : (s.link x).boundaryFree = true) (hs : (s.link x).state = .active) (hn : 0 < (s.link x).settle) :
    exec (.sendFill x) s = .next (s.settleFill x).resume :=
  (if_pos hb).trans (by rw [hs]; exact if_pos hn)

theorem exec_sendFill_idle (hb : (s.link x).boundaryFree = true) (hs : (s.link x).state = .active) (hn : (s.link x).settle = 0)
    (hp : (s.link x).pendingGrants = 0) (hw : (s.link x).sending = none ∨ (s.link x).waitsForCredit = true) :
    exec (.sendFill x) s = .next (s.sent x .fill).resume :=
  (if_pos hb).trans (by rw [hs]; exact (if_neg (by omega)).trans (if_pos ⟨hp, hw⟩))

end

/-- Settles O42: the symbols by the state of the link, and the choice. -/
theorem sendFillAndGrant : Obligations.SendFillAndGrant := by
  intro x s l
  refine ⟨fun ha hsd => ?_, transmitterChoose_stands,
    fun n cls run r h1 h2 h3 h4 hc hr => transmitterChoose_chooses h1 h2 h3 h4 hc hr⟩
  have hb : l.boundaryFree = true := boundaryFree_iff.mpr ⟨ha, hsd⟩
  refine ⟨fun hst => exec_sendFill_quiet hb hst, fun hst => ?_, fun hst => ?_⟩
  · refine ⟨fun hn => ?_, fun hn hseen => ?_⟩ <;> rw [exec_sendFill_start hb hst, State.startFill]
    · rw [if_neg]
      rintro ⟨h8, hseen⟩
      rcases hn with hn | hn
      · have : (s.link x).fillsSent < 7 := hn
        omega
      · rw [show (s.link x).fillSeen = false from hn] at hseen; cases hseen
    · have h8 : min ((s.link x).fillsSent + 1) 8 = 8 := by
        have : 7 ≤ (s.link x).fillsSent := hn
        omega
      rw [if_pos ⟨h8, hseen⟩, State.enterActive, State.setLink_link, if_pos rfl, State.setLink_setLink, h8]
  · refine ⟨fun hn => ?_, fun hn => ?_, fun hn hp hs => exec_sendFill_idle hb hst hn hp (.inl hs), fun g hn hg => ?_⟩
    · rw [exec_sendFill_settle hb hst (by omega : 0 < l.settle), State.settleFill, if_neg]
      rw [State.setLink_link, if_pos rfl]
      have : 2 ≤ (s.link x).settle := hn
      show (s.link x).settle - 1 ≠ 0
      omega
    · have hfill : s.settleFill x = (s.setLink x { l with settle := 0, lastSymbol := some .fill }).transmitterChoose x := by
        rw [State.settleFill, show (s.link x).settle = 1 from hn, if_pos]
        rw [State.setLink_link, if_pos rfl]
      have he := exec_sendFill_settle hb hst (by omega : 0 < l.settle)
      refine ⟨he.trans (by rw [hfill]), Eq.trans ?_ he.symm⟩
      exact (if_pos ⟨hst, le_of_eq hn⟩).trans (if_pos hn)
    · have hw : (s.link x).working = true := working_iff.mpr ⟨hst, hn, hb⟩
      have hpos : 0 < (s.link x).pendingGrants := by
        rw [show (s.link x).pendingGrants = g + 1 from hg]; exact Nat.succ_pos g
      refine (if_pos ⟨hw, hpos⟩).trans ?_
      rw [show (s.link x).pendingGrants = g + 1 from hg]
      rfl

/-- Settles O43: the header bytes by their place, and the payload bytes by the credit they need. -/
theorem sendFrameBytes : Obligations.SendFrameBytes := by
  intro x n r s ha hs hdue hp hr l sends control
  have time {p : Progress} (h : l.sending = some { recId := n, progress := p }) (hn : p ≠ .eomBegun) :
      s.frameSymbol x = some ({ recId := n, progress := p }, r) := by
    refine frameSymbol_eq (frameTime_iff.mpr ⟨ha, hs, boundaryFree_iff.mpr ⟨hdue, fun sd e => ?_⟩, hp⟩) h hr
    rw [show (s.link x).sending = _ from h] at e
    cases e
    exact hn
  refine ⟨fun i v h hv => ?_, fun j c h hc => ?_⟩
  · obtain ⟨hbyte, hlast⟩ := headerByte_of r hv
    show execSendHeaderByte x s = _
    simp only [execSendHeaderByte, time h nofun, hbyte]
    have hnext : (if i < 6 then Progress.header (i + 1) else .payload 0) = if i = 6 then .payload 0 else .header (i + 1) := by
      by_cases h6 : i = 6
      · rw [if_pos h6, if_neg (by omega)]
      · rw [if_neg h6, if_pos (by omega)]
    rw [hnext]
  · have hpay : s.payload r j = s.mem.read (c.val * 32 + j % 32) := payload_of_cell hc
    have hw := waitsForCredit_payload h
    have send (k : Nat) (hn : ¬(j % 32 = 0 ∧ l.credit = 0)) (hk : (if j % 32 = 0 then l.credit - 1 else l.credit) = k) :
        exec (.sendPayloadByte x) s =
          sends (.data (s.mem.read (c.val * 32 + j % 32))) k (if j + 1 < r.length then .payload (j + 1) else .eom) := by
      show execSendPayloadByte x s = _
      simp only [execSendPayloadByte, time h nofun, hpay]
      rw [if_neg (mt hw.mp hn), ← hk]
    refine ⟨fun h0 => send _ (fun e => h0 e.1) (if_neg h0), fun c' h0 hcr => send _ ?_ ?_, fun h0 hcr => ?_⟩
    · rintro ⟨-, e⟩
      rw [hcr] at e
      cases e
    · rw [if_pos h0, hcr, Nat.add_sub_cancel]
    · have hwait : l.waitsForCredit = true := hw.mpr ⟨h0, hcr⟩
      have hfill : exec (.sendPayloadByte x) s = .next (s.sent x .fill).resume := by
        show execSendPayloadByte x s = _
        simp only [execSendPayloadByte, time h nofun]
        exact if_pos hwait
      have hb : l.boundaryFree = true := boundaryFree_iff.mpr ⟨hdue, fun sd e => by rw [h] at e; cases e; nofun⟩
      refine ⟨hfill.trans ?_, (exec_sendFill_idle hb ha hs hp (.inr hwait)).trans hfill.symm⟩
      show Host.Outcome.next (s.setLink x _).resume = Host.Outcome.next (s.setLink x _).resume
      rw [← hcr, ← h]

/-- Settles O44: the two moments of the EOM, and the ABM. -/
theorem sendEomAndAbm : Obligations.SendEomAndAbm := by
  intro x s l atTime
  have time (n : RecId) (h : l.sending = some { recId := n, progress := .eom }) (ht : atTime) : l.frameTime = true := by
    obtain ⟨h1, h2, h3, h4⟩ := ht
    refine frameTime_iff.mpr ⟨h1, h2, boundaryFree_iff.mpr ⟨h3, fun sd e => ?_⟩, h4⟩
    rw [h] at e
    cases e
    nofun
  refine ⟨fun n r h hr ht => ?_, fun n h => ?_, fun h => if_pos h⟩
  · show execEomSent x .begins s = _
    simp only [execEomSent, frameSymbol_eq (time n h ht) h hr]
    rfl
  · have hn : s.eomRecord x = some n := by
      unfold State.eomRecord
      rcases h with h | ⟨h, ht⟩ <;> rw [show (s.link x).sending = _ from h]
      exact if_pos (time n h ht)
    show execEomSent x .completes s = _
    simp only [execEomSent, hn]
    rfl

end Sys2Proof.Safety
end

section
/-! SUPPORT. The link receiver's commands but the payload byte (O45, O46, O48). -/

namespace Sys2Proof.Safety

open Sys2Proof.Machine

/-! ### What the state of the link decides (R151) -/

section
variable {s : State} {x : LinkId} {b : Byte} {c : Instr}

theorem exec_symbol_quiet (h : (s.link x).state = .off ∨ (s.link x).state = .hold)
    (hc : c ∈
      [.receiveGrant x, .receiveHeaderByte x b, .headerStep x b, .receivePayloadByte x b, .receiveEom x, .receiveAbm x]) :
    exec c s = .next s.resume := by
  simp only [List.mem_cons, List.not_mem_nil, or_false] at hc
  rcases hc with rfl | rfl | rfl | rfl | rfl | rfl <;>
    simp only [exec, execReceiveGrant, execReceiveHeaderByte, execHeaderStep, execReceivePayloadByte, execReceiveEom,
      execReceiveAbm] <;>
    rcases h with h | h <;> rw [h]

theorem exec_symbol_start (h : (s.link x).state = .start)
    (hc : c ∈
      [.receiveGrant x, .receiveHeaderByte x b, .headerStep x b, .receivePayloadByte x b, .receiveEom x, .receiveAbm x]) :
    exec c s = .next (s.linkFault x .order).resume := by
  simp only [List.mem_cons, List.not_mem_nil, or_false] at hc
  rcases hc with rfl | rfl | rfl | rfl | rfl | rfl <;>
    simp only [exec, execReceiveGrant, execReceiveHeaderByte, execHeaderStep, execReceivePayloadByte, execReceiveEom,
      execReceiveAbm] <;>
    rw [h]

theorem exec_receiveFill_quiet (h : (s.link x).state = .off ∨ (s.link x).state = .hold) :
    exec (.receiveFill x) s = .next s.resume := by
  show execReceiveFill x s = _
  unfold execReceiveFill
  rcases h with h | h <;> rw [h]

theorem exec_receiveFill_start (h : (s.link x).state = .start) :
    exec (.receiveFill x) s =
      if (s.link x).fillsSent = 8 then .next ((s.setLink x { s.link x with fillSeen := true }).enterActive x).resume
      else .next (s.setLink x { s.link x with fillSeen := true }).resume := by
  show execReceiveFill x s = _
  unfold execReceiveFill
  simp only [h]

theorem exec_receiveFill_active (h : (s.link x).state = .active) : exec (.receiveFill x) s = .next (s.heard x).resume := by
  show execReceiveFill x s = _
  unfold execReceiveFill
  rw [h]

theorem exec_receiveGrant_active (h : (s.link x).state = .active) :
    exec (.receiveGrant x) s =
      if 16 ≤ (s.link x).credit then .next (s.linkFault x .credit).resume
      else .next (s.setLink x { s.link x with credit := (s.link x).credit + 1, silence := true }).resume := by
  show execReceiveGrant x s = _
  unfold execReceiveGrant
  simp only [h, Config.maxCredit]

theorem exec_symbolError {w : SymbolWord} (h : (s.link x).state = .off ∨ (s.link x).state = .hold) :
    exec (.symbolError x w) s = .next s.resume := by
  show (if decodeSymbol w = none then _ else _) = _
  rw [State.linkFault_inactive _ h, ite_self]

end

/-- Settles O45: FILL and GRANT by the state of the link. -/
theorem fillAndGrantReceived : Obligations.FillAndGrantReceived := by
  intro x b s l symbols
  refine ⟨fun h => ⟨?_, fun w => exec_symbolError h, fun c hc => exec_symbol_quiet h hc⟩,
    fun h => ⟨fun c hc => exec_symbol_start h hc, fun hn => ?_, fun hn => ?_⟩, fun h => ⟨?_, fun hc => ?_, fun hc => ?_⟩⟩
  · exact exec_receiveFill_quiet h
  · exact (exec_receiveFill_start h).trans (if_neg hn)
  · refine (exec_receiveFill_start h).trans ((if_pos hn).trans ?_)
    rw [State.enterActive, State.setLink_link, if_pos rfl, State.setLink_setLink]
  · exact exec_receiveFill_active h
  · exact (exec_receiveGrant_active h).trans (if_neg (Nat.not_le.mpr hc))
  · exact (exec_receiveGrant_active h).trans (if_pos hc)

/-! ### Headers -/

section
variable {s : State} {x : LinkId} {b : Byte}

theorem freeRecord_of {n : RecId} (h : s.record n = none) (hl : ∀ i, i < n → s.record i ≠ none) : s.freeRecord = some n := by
  unfold State.freeRecord
  refine List.find?_eq_some_iff_getElem.mpr ⟨by rw [h]; rfl, n.val, by simp, by simp, fun j hj => ?_⟩
  rw [List.getElem_finRange]
  have := hl ⟨j, by omega⟩ hj
  simpa [Option.isSome_iff_ne_none] using this

theorem exec_receiveHeaderByte (h : (s.link x).state = .active) :
    exec (.receiveHeaderByte x b) s =
      if (s.link x).headerDone = true then .next s.resume
      else if (s.link x).headerEnds = true then s.headerComplete x ((s.link x).hdr ++ [b])
      else .next (s.holdHeaderByte x b).resume := by
  show execReceiveHeaderByte x b s = _
  unfold execReceiveHeaderByte
  rw [h]

theorem exec_headerStep (h : (s.link x).state = .active) :
    exec (.headerStep x b) s =
      if (s.link x).headerEnds = true then s.headerComplete x ((s.link x).hdr ++ [b]) else .next s.resume := by
  show execHeaderStep x b s = _
  unfold execHeaderStep
  rw [h]

/-- The header step of a legal length (R174). -/
theorem headerComplete_next {dst src control tag hi : Byte} {n : RecId} {t : Target × Option Reason}
    (hlen : ¬(twoBytes hi b = 0 ∨ Config.maxLength < twoBytes hi b)) (hn : s.freeRecord = some n)
    (ht : s.linkTarget dst control = t) :
    s.headerComplete x [dst, src, control, tag, hi, b] =
      .next
        ((((s.reservePlace t.1).setRecord n (some (linkRecord x [dst, src, control, tag, hi, b] t))).setSlot (.link x)
            (some n)).setLink x { s.link x with hdr := [dst, src, control, tag, hi, b], silence := true }).resume := by
  have hlink : (((s.reservePlace t.1).setRecord n (some (linkRecord x [dst, src, control, tag, hi, b] t))).setSlot (.link x)
      (some n)).link x = s.link x := by
    rw [State.reservePlace_rest]; rfl
  unfold State.headerComplete
  simp only [List.getD_cons_zero, List.getD_cons_succ]
  rw [if_neg hlen, hn]
  simp only [ht, hlink]

end

/-- Settles O46: the first five header bytes are held, and the sixth makes the header step. -/
theorem headerReceived : Obligations.HeaderReceived := by
  intro x b s ha l
  refine ⟨fun ho => ?_, fun ho hn => ?_, fun dst src control tag hi c ho hh hc => ?_⟩
  · rw [exec_receiveHeaderByte ha, if_neg (by simp [Link.headerDone, show (s.link x).isOpen = false from ho]),
      if_neg (by simp [Link.headerEnds, show (s.link x).isOpen = false from ho]), State.holdHeaderByte,
      show (s.link x).isOpen = false from ho]
    rfl
  · have hlen : (s.link x).hdr.length < 5 := hn
    rw [exec_receiveHeaderByte ha, if_neg (by simp [Link.headerDone]; omega), if_neg (by simp [Link.headerEnds]; omega),
      State.holdHeaderByte, show (s.link x).isOpen = true from ho]
    rfl
  intro len cls hops redirected aimed placed
  have hstep : exec c s = s.headerComplete x [dst, src, control, tag, hi, b] := by
    have hends : (s.link x).headerEnds = true :=
      headerEnds_iff.mpr ⟨ho, by rw [show (s.link x).hdr = _ from hh]; rfl⟩
    have happ : (s.link x).hdr ++ [b] = [dst, src, control, tag, hi, b] := by rw [show (s.link x).hdr = _ from hh]; rfl
    rcases hc with rfl | rfl
    · rw [exec_headerStep ha, if_pos hends, happ]
    · rw [exec_receiveHeaderByte ha, if_neg, if_pos hends, happ]
      simp [Link.headerDone, show (s.link x).hdr = _ from hh]
  rw [hstep]
  refine ⟨fun hlen => if_pos hlen, fun n h1 h2 hn hlow => ?_⟩
  have haim : s.linkTarget dst control = aimed := rfl
  have hplace : s.reservePlace aimed.1 = placed := rfl
  have hlen : ¬(twoBytes hi b = 0 ∨ Config.maxLength < twoBytes hi b) := by
    have e : twoBytes hi b = len := rfl
    have : Config.maxLength = 1024 := rfl
    omega
  rw [headerComplete_next hlen (freeRecord_of hn hlow) haim, hplace]
  rfl

/-! ### Endings -/

section
variable {s : State} {x : LinkId}

theorem receiving_eq {n : RecId} {r : Record} (hs : s.slot (.link x) = some n) (hr : s.record n = some r) :
    s.receiving x = some (n, r) := by
  rw [State.receiving, hs]
  simp only [hr, Option.map_some]

theorem exec_receiveEom_closed (h : (s.link x).state = .active) (ho : (s.link x).isOpen = false) :
    exec (.receiveEom x) s = .next (s.linkFault x .order).resume := by
  show execReceiveEom x s = _
  unfold execReceiveEom
  simp only [h, ho, if_true]

theorem exec_receiveEom_early (h : (s.link x).state = .active) (ho : (s.link x).isOpen = true)
    (hn : (s.link x).hdr.length < 6) : exec (.receiveEom x) s = .next (s.linkFault x .frame).resume := by
  show execReceiveEom x s = _
  unfold execReceiveEom
  simp only [h, ho, hn, Bool.true_eq_false, if_false, if_true]

theorem exec_receiveEom_ends {n : RecId} {r : Record} (h : (s.link x).state = .active) (ho : (s.link x).isOpen = true)
    (hn : 6 ≤ (s.link x).hdr.length) (hr : s.receiving x = some (n, r)) :
    exec (.receiveEom x) s = .next ((s.endMessage x).eomOutcome n r).resume := by
  show execReceiveEom x s = _
  unfold execReceiveEom
  simp only [h, ho, hr, Bool.true_eq_false, if_false, if_neg (Nat.not_lt.mpr hn)]

theorem exec_receiveAbm_closed (h : (s.link x).state = .active) (ho : (s.link x).isOpen = false) :
    exec (.receiveAbm x) s = .next (s.linkFault x .order).resume := by
  show execReceiveAbm x s = _
  unfold execReceiveAbm
  simp only [h, ho, if_true]

theorem exec_receiveAbm_held (h : (s.link x).state = .active) (ho : (s.link x).isOpen = true) (hr : s.receiving x = none) :
    exec (.receiveAbm x) s = .next ((s.endMessage x).raiseMgr .linkDiscard).resume := by
  show execReceiveAbm x s = _
  unfold execReceiveAbm
  simp only [h, ho, hr, Bool.true_eq_false, if_false]

theorem exec_receiveAbm_ends {n : RecId} {r : Record} (h : (s.link x).state = .active) (ho : (s.link x).isOpen = true)
    (hr : s.receiving x = some (n, r)) :
    exec (.receiveAbm x) s = .next (((s.endMessage x).discard n).raiseMgr .linkDiscard).resume := by
  show execReceiveAbm x s = _
  unfold execReceiveAbm
  simp only [h, ho, hr, Bool.true_eq_false, if_false]

end

/-- Settles O48: each ending by the message that is open. -/
theorem endingsReceived : Obligations.EndingsReceived := by
  intro x s ha l done
  refine ⟨fun ho => ⟨exec_receiveEom_closed ha ho, exec_receiveAbm_closed ha ho⟩, fun ho =>
    ⟨exec_receiveEom_early ha ho, fun hs => ?_, fun n r hs hr => ?_⟩⟩
  · have hnone : s.receiving x = none := by rw [State.receiving, hs]
    exact exec_receiveAbm_held ha ho hnone
  · have hrec := receiving_eq hs hr
    refine ⟨exec_receiveAbm_ends ha ho hrec, fun hn => ?_⟩
    rw [exec_receiveEom_ends ha ho hn hrec]
    refine ⟨fun hf ht => ?_, fun hf ht => ?_, fun hf => ?_⟩ <;> rw [State.eomOutcome]
    · rw [if_pos hf]
      cases h : r.target with
      | drop => exact absurd h ht
      | queue q => rfl
      | uq => rfl
    · rw [if_pos hf, ht]
      rfl
    · rw [if_neg hf]
      rfl

end Sys2Proof.Safety
end

section
/-! SUPPORT. The payload byte received, and the fault of a link (O47, O49). -/

namespace Sys2Proof.Safety

open Sys2Proof.Machine

/-! ### A payload byte stored (R8) -/

section
variable {s : State} {n : RecId} {r : Record} {b : Byte} {a : Nat}

theorem record_setRecord (s : State) (n : RecId) (r : Option Record) (i : RecId) :
    (s.setRecord n r).record i = if i = n then r else s.record i := by
  rw [State.setRecord_record]
  simp only [eq_comm]

theorem storePayload_eq (hr : s.record n = some r) (ha : r.payloadAddr r.filled = some a) :
    s.storePayload n b = (s.setMem (s.mem.write a b)).setRecord n (some { r with filled := r.filled + 1 }) := by
  unfold State.storePayload
  simp only [hr, ha]

/-- The byte is at its address, every other reads as before, and the record has one more (R8). -/
theorem storePayload_spec (hr : s.record n = some r) (ha : r.payloadAddr r.filled = some a) (hw : s.mem.wf = true) :
    (s.storePayload n b).mem.read a = b ∧ (∀ a', a' ≠ a → (s.storePayload n b).mem.read a' = s.mem.read a') ∧
      (s.storePayload n b).mem.wf = true ∧
      ∀ i, (s.storePayload n b).record i = if i = n then some { r with filled := r.filled + 1 } else s.record i := by
  rw [storePayload_eq hr ha]
  have hread (c : Nat) : (s.mem.write a b).read c = if c = a then b else s.mem.read c := Memory.read_write hw a c b
  refine ⟨?_, fun a' h => ?_, Memory.wf_write a b hw, fun i => ?_⟩
  · exact (hread a).trans (if_pos rfl)
  · exact (hread a').trans (if_neg h)
  · exact record_setRecord _ _ _ _

variable {x : LinkId} {cell : CellId} {rest : List CellId}

/-- A payload byte that opens a cell (R32, R175): the oldest reserved cell joins the record, which has one byte more. -/
theorem takeOne_stored (hw : s.mem.wf = true) (h0 : r.filled % 32 = 0)
    (hlen : r.cells.length = r.filled / 32) :
    let m := ((s.heard x).takeOne x n r cell rest).storePayload n b
    m.mem.read (cell.val * 32) = b ∧ (∀ a, a ≠ cell.val * 32 → m.mem.read a = s.mem.read a) ∧ m.mem.wf = true ∧
      (∀ i, m.record i = if i = n then some { r with cells := r.cells ++ [cell], filled := r.filled + 1 } else s.record i) ∧
      m.link x = { s.link x with reserved := rest, silence := true } ∧ (∀ y, y ≠ x → m.link y = s.link y) ∧
      m = { s with mem := m.mem, records := m.records, links := m.links } := by
  intro m
  have hv (i : RecId) : ((s.heard x).takeOne x n r cell rest).record i =
      if i = n then some { r with cells := r.cells ++ [cell] } else s.record i := record_setRecord _ _ _ _
  have hlink (y : LinkId) : ((s.heard x).takeOne x n r cell rest).link y =
      if x = y then { s.link x with reserved := rest, silence := true } else s.link y := by
    simp only [State.takeOne, State.heard, State.setRecord_link, State.setLink_setLink, State.setLink_link, if_true]
  have haddr : ({ r with cells := r.cells ++ [cell] } : Record).payloadAddr r.filled = some (cell.val * 32) := by
    have hcell : (r.cells ++ [cell])[r.filled / 32]? = some cell := by rw [← hlen]; exact List.getElem?_concat_length
    rw [payloadAddr_of hcell, h0, Nat.add_zero]
  obtain ⟨h1, h2, h3, h4⟩ := storePayload_spec (b := b) ((hv n).trans (if_pos rfl)) haddr hw
  have hm : m = _ := storePayload_rest ((s.heard x).takeOne x n r cell rest) n b
  have hml (y : LinkId) : m.link y = ((s.heard x).takeOne x n r cell rest).link y := by rw [hm]; rfl
  refine ⟨h1, h2, h3, fun i => ?_, ?_, fun y hy => ?_, ?_⟩
  · refine (h4 i).trans ?_
    rw [hv]
    split
    · rfl
    · rfl
  · rw [hml, hlink, if_pos rfl]
  · rw [hml, hlink, if_neg (Ne.symm hy)]
  · rw [hm]; rfl

/-- A payload byte within a cell (R8, R175). -/
theorem heard_stored (hr : s.record n = some r) (hw : s.mem.wf = true) (hcell : r.cells[r.filled / 32]? = some cell) :
    let m := (s.heard x).storePayload n b
    m.mem.read (cell.val * 32 + r.filled % 32) = b ∧
      (∀ a, a ≠ cell.val * 32 + r.filled % 32 → m.mem.read a = s.mem.read a) ∧ m.mem.wf = true ∧
      (∀ i, m.record i = if i = n then some { r with filled := r.filled + 1 } else s.record i) ∧
      m.link x = { s.link x with silence := true } ∧ (∀ y, y ≠ x → m.link y = s.link y) ∧
      m = { s with mem := m.mem, records := m.records, links := m.links } := by
  intro m
  have hlink (y : LinkId) : (s.heard x).link y = if x = y then { s.link x with silence := true } else s.link y :=
    State.setLink_link _ _ _ _
  obtain ⟨h1, h2, h3, h4⟩ := storePayload_spec (s := s.heard x) (b := b) hr (payloadAddr_of hcell) hw
  have hm : m = _ := storePayload_rest (s.heard x) n b
  have hml (y : LinkId) : m.link y = (s.heard x).link y := by rw [hm]; rfl
  refine ⟨h1, h2, h3, h4, ?_, fun y hy => ?_, ?_⟩
  · rw [hml, hlink, if_pos rfl]
  · rw [hml, hlink, if_neg (Ne.symm hy)]
  · rw [hm]; rfl

/-! ### The cases of a payload byte (R175) -/

theorem receivePayload_beyond (h : r.length ≤ r.filled) : s.receivePayload x n r b = (s.finish x).linkFault x .frame := if_pos h

theorem receivePayload_starved (h : r.filled < r.length) (h0 : r.filled % 32 = 0) (hres : ((s.finish x).link x).reserved = []) :
    s.receivePayload x n r b = (s.finish x).linkFault x .credit :=
  (if_neg (Nat.not_le.mpr h)).trans ((if_pos h0).trans (by rw [hres]))

theorem receivePayload_opens (h : r.filled < r.length) (h0 : r.filled % 32 = 0)
    (hres : ((s.finish x).link x).reserved = cell :: rest) :
    s.receivePayload x n r b =
      ((((s.finish x).heard x).takeOne x n r cell rest).storePayload n b).accountsEvent [x] false :=
  (if_neg (Nat.not_le.mpr h)).trans ((if_pos h0).trans (by rw [hres]))

theorem receivePayload_within (h : r.filled < r.length) (h0 : r.filled % 32 ≠ 0) :
    s.receivePayload x n r b = ((s.finish x).heard x).storePayload n b :=
  (if_neg (Nat.not_le.mpr h)).trans (if_neg h0)

theorem exec_receivePayloadByte (ha : (s.link x).state = .active) (ho : (s.link x).isOpen = true)
    (hh : (s.link x).hdr.length = 6) (hs : s.slot (.link x) = some n) (hr : s.record n = some r) :
    exec (.receivePayloadByte x b) s = .next (s.receivePayload x n r b).resume := by
  have hdone : (s.link x).headerDone = true := by simp [Link.headerDone, ho, hh]
  show execReceivePayloadByte x b s = _
  unfold execReceivePayloadByte
  simp only [ha, hdone, if_true, receiving_eq hs hr]

end

/-- Settles O47: the fault, the cell taken, or the byte stored. -/
theorem payloadReceived : Obligations.PayloadReceived := by
  intro x b n r s ha ho hh hs hr hw c u
  have hu : OnlyAccounts s u := onlyAccounts_finish s x
  have hmem : u.mem = s.mem := by rw [hu.rest]
  have hrec (i : RecId) : u.record i = s.record i := hu.record i
  have hur : u.record n = some r := (hrec n).trans hr
  have huw : u.mem.wf = true := hmem.symm ▸ hw
  have hexec : exec c s = .next (s.receivePayload x n r b).resume := exec_receivePayloadByte ha ho hh hs hr
  simp only [hexec, ← hrec, ← hmem]
  refine ⟨fun h => ?_, fun h h0 hres => ?_, fun cell rest h h0 hres hlen => ⟨_, ?_, takeOne_stored huw h0 hlen⟩,
    fun cell h h0 hcell => ⟨_, ?_, heard_stored hur huw hcell⟩⟩
  · rw [receivePayload_beyond h]
  · rw [receivePayload_starved h h0 hres]
  · rw [receivePayload_opens h h0 hres]
  · rw [receivePayload_within h h0]

end Sys2Proof.Safety
end

section
/-! SUPPORT. The fault of a link and the end of HOLD (O49). -/

namespace Sys2Proof.Safety

open Sys2Proof.Machine

/-! ### The fate of the sending record (R16) -/

/-- A link after a fault, with its message and its sending record given up (R157). -/
def faultedLink (l : Link) (kind : LinkFault) : Link := { l.toHold kind with sending := none }

/-- The state with the sending record's fate decided and the link in HOLD (R16, R157). -/
def heldAfter (t : State) (x : LinkId) (kind : LinkFault) : State :=
  (t.faultSending x).1.setLink x (((t.faultSending x).1.link x).toHold kind)

section
variable {t : State} {x : LinkId} {sd : Sending} {r : Record}

theorem heldAfter_eq (t : State) (x : LinkId) (kind : LinkFault) :
    heldAfter t x kind = (t.faultSending x).1.setLink x (faultedLink (t.link x) kind) := by
  rw [heldAfter, faultSending_link]
  rfl

theorem setRecord_setLink (s : State) (n : RecId) (r : Option Record) (x : LinkId) (l : Link) :
    (s.setRecord n r).setLink x l = (s.setLink x l).setRecord n r := rfl

theorem raiseMgr_setLink (s : State) (e : MgrEvent) (x : LinkId) (l : Link) :
    (s.raiseMgr e).setLink x l = (s.setLink x l).raiseMgr e := rfl

theorem enqueue_setLink (s : State) (n : RecId) (u : Target) (x : LinkId) (l : Link) :
    (s.enqueue n u).setLink x l = (s.setLink x l).enqueue n u := by
  cases u <;> rfl

theorem unqueue_setLink (s : State) (n : RecId) (u : Target) (x : LinkId) (l : Link) :
    (s.unqueue n u).setLink x l = (s.setLink x l).unqueue n u := by
  cases u <;> rfl

theorem faultSending_none (h : (t.link x).sending = none) (kind : LinkFault) :
    (t.faultSending x).2 = { cells := false, falls := [] } ∧
      heldAfter t x kind = t.setLink x (faultedLink (t.link x) kind) := by
  have e : t.faultSending x = (t, { cells := false, falls := [] }) := by
    unfold State.faultSending
    rw [h]
  rw [heldAfter_eq, e]
  exact ⟨rfl, rfl⟩

theorem faultSending_requeued (h : (t.link x).sending = some sd) (hr : t.record sd.recId = some r)
    (hn : r.resends < (t.link x).ctrl.resendLimit) (kind : LinkFault) :
    (t.faultSending x).2 = { cells := false, falls := [] } ∧
      heldAfter t x kind =
        (t.setLink x (faultedLink (t.link x) kind)).setRecord sd.recId
          (some { r with resends := r.resends + 1, state := .queued }) := by
  have e : t.faultSending x =
      ((t.setLink x { t.link x with sending := none }).setRecord sd.recId
          (some { r with resends := r.resends + 1, state := .queued }), { cells := false, falls := [] }) := by
    unfold State.faultSending
    simp only [h, hr, hn, if_true]
  rw [heldAfter_eq, e, setRecord_setLink, State.setLink_setLink]
  exact ⟨rfl, rfl⟩

theorem faultSending_undelivered (h : (t.link x).sending = some sd) (hr : t.record sd.recId = some r)
    (hn : (t.link x).ctrl.resendLimit ≤ r.resends) (hu : t.uq.occupancy < Config.uqCapacity) (kind : LinkFault) :
    (t.faultSending x).2 = { cells := false, falls := r.target.classes } ∧
      heldAfter t x kind =
        ((((t.setLink x (faultedLink (t.link x) kind)).unqueue sd.recId r.target).setRecord sd.recId
              (some { r with target := .uq, reason := some .resends, state := .queued })).enqueue sd.recId .uq).raiseMgr
          .undeliverable := by
  have e : t.faultSending x =
      (((((t.setLink x { t.link x with sending := none }).unqueue sd.recId r.target).setRecord sd.recId
              (some { r with target := .uq, reason := some .resends, state := .queued })).enqueue sd.recId
            .uq).raiseMgr .undeliverable, { cells := false, falls := r.target.classes }) := by
    unfold State.faultSending
    simp only [h, hr, if_neg (Nat.not_lt.mpr hn), hu, if_true]
  rw [heldAfter_eq, e, raiseMgr_setLink, enqueue_setLink, setRecord_setLink, unqueue_setLink, State.setLink_setLink]
  exact ⟨rfl, rfl⟩

theorem faultSending_dropped (h : (t.link x).sending = some sd) (hr : t.record sd.recId = some r)
    (hn : (t.link x).ctrl.resendLimit ≤ r.resends) (hu : Config.uqCapacity ≤ t.uq.occupancy) (kind : LinkFault) :
    (t.faultSending x).2 = t.returnedBy sd.recId ∧
      heldAfter t x kind =
        ((t.setLink x (faultedLink (t.link x) kind)).discardOne sd.recId).raiseMgr .undeliverableDropped := by
  have e : t.faultSending x =
      (((t.setLink x { t.link x with sending := none }).discardOne sd.recId).raiseMgr .undeliverableDropped,
        t.returnedBy sd.recId) := by
    unfold State.faultSending
    simp only [h, hr, if_neg (Nat.not_lt.mpr hn), if_neg (Nat.not_lt.mpr hu)]
  have hne : t.record sd.recId ≠ none := by rw [hr]; nofun
  have hdrop : (faultedLink (t.link x) kind).dropSendingOf sd.recId = faultedLink (t.link x) kind := if_neg nofun
  rw [heldAfter_eq, e, raiseMgr_setLink, discardOne_setLink _ _ _ _ hne, discardOne_setLink _ _ _ _ hne, hdrop,
    State.setLink_setLink]
  exact ⟨rfl, rfl⟩

end

/-! ### The fault -/

section
variable {s : State} {x : LinkId} {kind : LinkFault}

theorem Returns.and_nothing {v : State} {cs fs : List RecId} {more : Bool} {back : Returned} (h : Returns v cs fs more back) :
    Returns v cs fs more (back.and { cells := false, falls := [] }) := by
  have e := h.and (returns_reserved v false)
  rwa [List.append_nil, List.append_nil, Bool.or_false] at e

theorem Returns.and_fall {v : State} {cs fs : List RecId} {more : Bool} {back : Returned} {n : RecId} {r : Record}
    (h : Returns v cs fs more back) (hr : v.record n = some r) :
    Returns v cs (fs ++ [n]) more (back.and { cells := false, falls := r.target.classes }) := by
  have hfall : Returns v [] [n] false { cells := false, falls := r.target.classes } := by
    refine ⟨by simp, fun q => ?_⟩
    rw [← show (v.returnedBy n).falls = r.target.classes by rw [State.returnedBy, hr], mem_falls_returnedBy]
    simp
  have e := h.and hfall
  rwa [List.append_nil, Bool.or_false] at e

theorem Returns.and_record {v : State} {cs fs : List RecId} {more : Bool} {back : Returned} (h : Returns v cs fs more back)
    (n : RecId) : Returns v (cs ++ [n]) (fs ++ [n]) more (back.and (v.returnedBy n)) := by
  have hn : Returns v [n] [n] false (v.returnedBy n) :=
    ⟨by simp [cells_returnedBy], fun q => by simp [mem_falls_returnedBy]⟩
  have e := h.and hn
  rwa [Bool.or_false] at e

/-- The seven steps of R157, with the sending record's fate as one of them. -/
theorem leaveByFault_eq (v : State) (x : LinkId) (kind : LinkFault) :
    v.leaveByFault x kind =
      ((heldAfter ((v.closeInbound x).returnAll x) x kind).raiseDown x (v.link x).state).passOn v
        (((v.inboundReturned x).and (v.reservedReturned x)).and (((v.closeInbound x).returnAll x).faultSending x).2) := rfl

theorem exec_holdEnd (h : (s.link x).state = .hold) (ht : (s.link x).holdTimer = true) :
    exec (.holdEnd x) s = .next (s.setLink x (s.link x).afterHold).resume := if_pos ⟨h, ht⟩

end

/-- Settles O49: the faults, the fate of what the link holds, and the end of HOLD. -/
theorem faultAndHold : Obligations.FaultAndHold := by
  intro x kind s l
  refine ⟨fun w h => if_pos h, fun ha hs => if_pos ⟨ha, hs⟩, State.linkFault_inactive kind, fun hst => ?_,
    fun hst ht => ⟨fun h => ?_, fun h hauto => ?_⟩⟩
  · intro v l closed held down inbound more
    have hfault : s.linkFault x kind = v.leaveByFault x kind := if_pos hst
    rw [hfault]
    clear_value v
    have hl : (v.link x) = l := rfl
    obtain ⟨o, hc⟩ : ∃ o, closed.link x = { l with sending := o } := withoutInbound_link v x
    let t := (v.closeInbound x).returnAll x
    have ht : t = (((closed.setFree (closed.free ++ l.reserved)).setUsed (.link x)
        (closed.used (.link x) - l.reserved.length)).setLink
          x { closed.link x with isOpen := false, hdr := [], reserved := [], pendingGrants := 0 }) :=
      closeInbound_returnAll v x
    have hlink : t.link x = { l with sending := o, isOpen := false, hdr := [], reserved := [], pendingGrants := 0 } := by
      rw [ht, State.setLink_link, if_pos rfl, hc]
    have hrec (n : RecId) : t.record n = closed.record n := by rw [ht]; rfl
    have huq : t.uq = closed.uq := by rw [ht]; rfl
    have hheld : t.setLink x (faultedLink (t.link x) kind) = held := by
      rw [hlink, ht, State.setLink_setLink]
      rfl
    have hsend : (t.link x).sending = (closed.link x).sending := by rw [hlink, hc]
    have hctrl : (t.link x).ctrl = l.ctrl := by rw [hlink]
    have hleave : v.leaveByFault x kind =
        (down (heldAfter t x kind)).passOn v
          (((v.inboundReturned x).and (v.reservedReturned x)).and (t.faultSending x).2) := leaveByFault_eq v x kind
    have hv (n : RecId) (r : Record) (hr : closed.record n = some r) : v.record n = some r := by
      have e : closed.record n = if v.slot (.link x) = some n then none else v.record n := closeInbound_record v x n
      rw [e] at hr
      split at hr
      · cases hr
      · exact hr
    clear_value t
    rw [hleave]
    have hback := returns_link v x
    refine ⟨fun h => ?_, fun sd r h hr => ⟨fun hn => ?_, fun hn hu => ?_, fun hn hu => ?_⟩⟩
    · obtain ⟨hf, hh⟩ := faultSending_none (hsend.trans h) kind
      rw [hh, hf, hheld]
      exact ⟨_, hback.and_nothing, rfl⟩
    · obtain ⟨hf, hh⟩ := faultSending_requeued (hsend.trans h) ((hrec _).trans hr) (hctrl ▸ hn) kind
      rw [hh, hf, hheld]
      exact ⟨_, hback.and_nothing, rfl⟩
    · obtain ⟨hf, hh⟩ := faultSending_undelivered (hsend.trans h) ((hrec _).trans hr) (hctrl ▸ hn) (huq ▸ hu) kind
      rw [hh, hf, hheld]
      exact ⟨_, hback.and_fall (hv _ r hr), rfl⟩
    · obtain ⟨hf, hh⟩ := faultSending_dropped (hsend.trans h) ((hrec _).trans hr) (hctrl ▸ hn) (huq ▸ hu) kind
      have hb : t.returnedBy sd.recId = v.returnedBy sd.recId := by
        unfold State.returnedBy
        rw [hrec, hr, hv _ r hr]
      rw [hh, hf, hheld, hb]
      exact ⟨_, hback.and_record sd.recId, rfl⟩
  · rw [exec_holdEnd hst ht, Link.afterHold, if_pos h]
    rfl
  · rw [exec_holdEnd hst ht, Link.afterHold, if_neg]
    rintro (e | e)
    · rw [show (s.link x).holdExit = _ from h] at e; cases e
    · rw [show (s.link x).ctrl.autoRestart = _ from hauto] at e; cases e

end Sys2Proof.Safety
end

section
/-! SUPPORT. FENCE, UNFENCE and RESTART (O38, O41). -/

namespace Sys2Proof.Safety

open Sys2Proof.Machine

section
variable {s : State} {k j : PortId} {b : Byte} {early : Bool}

theorem exec_fence (ht : (s.port k).tx = .running .fence) (hi : (s.port k).inCount = 1) (hm : Manages s k)
    (hb : b = BitVec.ofNat 8 j.val) (hj : j ≠ k) : exec (.fence k b early) s = answered k early 0x01 (s.fencePort j) := by
  have hs : s.byteStep k b = .fence := (byteStep_running ht b).trans (if_pos hi)
  refine (if_pos hs).trans ?_
  rw [judgeAdmin_manages hm, hb, portOfByte_ofNat]
  exact if_neg hj

theorem exec_unfence (ht : (s.port k).tx = .running .unfence) (hi : (s.port k).inCount = 1) (hm : Manages s k)
    (hb : b = BitVec.ofNat 8 j.val) : exec (.unfence k b early) s = answered k early 0x01 (s.unfencePort j) := by
  have hs : s.byteStep k b = .unfence := (byteStep_running ht b).trans (if_pos hi)
  refine (if_pos hs).trans ?_
  rw [judgeAdmin_manages hm, hb, portOfByte_ofNat]
  rfl

theorem isOpen_iff (t : TxState) : t.isOpen = true ↔ t ≠ .idle ∧ t ≠ .ended := by
  cases t <;> simp [TxState.isOpen]

/-- The last two parts of a fence, from the port with its transaction ended: the loan cleared without removal, and FENCE
CHANGED (R92). -/
theorem unlent_fenceChanged (s : State) (j : PortId) (p : Port) :
    let t := ((s.setPort j p).clearLoan j).raiseHost j .fenceChanged
    (∀ i, i ≠ j → t.port i = s.port i) ∧ t.port j = (unlent p).raise .fenceChanged ∧
      (∀ n, t.record n =
        if p.loan.map (·.recId) = some n then (s.record n).map fun r => { r with state := .queued } else s.record n) ∧
      t = { s with ports := t.ports, records := t.records } := by
  intro t
  have hport (i : PortId) : t.port i = if j = i then (unlent p).raise .fenceChanged else s.port i := by
    show (State.setPort _ j _).port i = _
    rw [State.setPort_port, clearLoan_port, clearLoan_port, State.setPort_port, if_pos rfl, if_pos rfl]
    split
    · rfl
    · rename_i h
      rw [State.setPort_port, if_neg h]
  refine ⟨fun i hi => (hport i).trans (if_neg (Ne.symm hi)), (hport j).trans (if_pos rfl), fun n => ?_, ?_⟩
  · show ((s.setPort j p).clearLoan j).record n = _
    rw [clearLoan_record, State.setPort_port, if_pos rfl]
    rfl
  · show State.setPort _ j _ = _
    rw [clearLoan_rest]
    rfl

end

/-- Settles O38: the flag, the transaction, the loan and the event. -/
theorem fenceEffect : Obligations.FenceEffect := by
  intro k j b early s hi hm hb
  refine ⟨fun ht => ⟨fun hf => ?_, fun hf => ?_⟩, fun ht hj => ⟨fun hf => ?_, fun hf => ?_⟩⟩
  · rw [exec_unfence ht hi hm hb, State.unfencePort, if_neg (by simp [hf])]
  · rw [exec_unfence ht hi hm hb, State.unfencePort, if_pos hf, State.raiseHost, State.setPort_port, if_pos rfl,
      State.setPort_setPort]
  · rw [exec_fence ht hi hm hb hj, State.fencePort, if_pos hf]
  · intro live s0 responds ended
    have hexec : exec (.fence k b early) s =
        answered k early 0x01 (((s0.endForFence j).clearLoan j).raiseHost j .fenceChanged) := by
      rw [exec_fence ht hi hm hb hj, State.fencePort, if_neg (by simp [hf])]
    have htx : (s0.port j).tx = (s.port j).tx := by simp [s0]
    have hphase : (s0.port j).phase = (s.port j).phase := by simp [s0]
    have hresponds (s1 : State) (p : Port) (h : s0.endForFence j = s1.setPort j p) : responds s1 p := by
      rw [h] at hexec
      obtain ⟨h1, h2, h3, h4⟩ := unlent_fenceChanged s1 j p
      exact ⟨_, hexec, h1, h2, h3, h4⟩
    have hopen (hl : live) : (s0.port j).tx.isOpen = true := by rw [htx]; exact (isOpen_iff _).mpr hl
    refine ⟨fun hl => hresponds _ _ ?_, fun hl hp => hresponds _ _ ?_, fun n hl hp hs => hresponds _ _ ?_⟩
    · rw [State.endForFence, if_neg, State.setPort_self]
      rw [htx, isOpen_iff]
      exact hl
    · rw [State.endForFence, if_pos (hopen hl)]
      simp only [hphase, if_neg hp]
      rfl
    · have habort : s0.abortPost j = (s0.discard n).raiseHost j .postAborted := by
        rw [State.abortPost, show s0.slot (.host j) = some n from hs]
      rw [State.endForFence, if_pos (hopen hl)]
      simp only [hphase, if_pos hp, habort]
      rfl

/-! ### RESTART -/

section
variable {s : State} {k j : PortId} {early : Bool}

theorem exec_restart (ht : (s.port k).tx = .opened) (hm : Manages s k) :
    exec (.restart k early) s = answered k early 0x01 ((s.setTx k (.running .restart)).restartAll k) := by
  obtain ⟨hf, hr⟩ := hm
  have hm' : Manages (s.setTx k (.running .restart)) k := ⟨by simp [State.setTx, hf], hr⟩
  refine (if_pos (byteStep_opened ht 0x7F)).trans ?_
  rw [judgeAdmin_manages hm']
  rfl

theorem restartAll_free (s : State) (k : PortId) : (s.restartAll k).free = List.finRange 512 := by
  simp only [State.restartAll, allCells]

theorem restartAll_port (s : State) (k j : PortId) :
    (s.restartAll k).port j = if k = j then (s.port k).restartOwn else (s.port j).restartOther := by
  show vget (vset _ k _) j = _
  rw [vget_vset, vget_map]
  rfl

theorem restartAll_link (s : State) (k : PortId) (x : LinkId) : (s.restartAll k).link x = (s.link x).restart := vget_map _ _ _

theorem restartAll_qclass (s : State) (k : PortId) (q : QueueId) :
    (s.restartAll k).qclass q = { recs := [], reserved := 0, depth := (s.qclass q).depth } := vget_map _ _ _

/-- An enabled link goes to HOLD with exit START, and any other is OFF (R163). -/
theorem restart_eq (l : Link) :
    l.restart =
      if l.ctrl.enable = true then
        { l with
          fillsSent := 0, fillSeen := false, settle := 0, silence := false, credit := 0, pendingGrants := 0,
          abmDue := false, isOpen := false, lastFault := .noFault, reserved := [], sending := none, hdr := [],
          state := .hold, holdTimer := true, holdExit := .start }
      else
        { l with
          fillsSent := 0, fillSeen := false, settle := 0, silence := false, credit := 0, pendingGrants := 0,
          abmDue := false, isOpen := false, lastFault := .noFault, reserved := [], sending := none, hdr := [],
          state := .off, holdTimer := false } := by
  unfold Link.restart
  cases l.ctrl.enable <;> simp

end

/-- Settles O41: each block of the state that a restart leaves. -/
theorem restartEffect : Obligations.RestartEffect := by
  intro k early s ht hm cleared
  have hport (j : PortId) : (s.setTx k (.running .restart)).port j =
      if k = j then { s.port k with tx := .running .restart } else s.port j := State.setPort_port _ _ _ _
  refine ⟨_, exec_restart ht hm, restartAll_free _ k, fun n => vget_replicate _ _,
    fun p => ⟨vget_replicate _ _, vget_replicate _ _, vget_replicate _ _⟩, restartAll_qclass _ k, rfl, rfl, ?_,
    fun j hj htx => ?_, fun j hj h1 h2 => ?_, fun x => ?_, ?_⟩
  · rw [restartAll_port, if_pos rfl, hport, if_pos rfl]
    rfl
  · rw [restartAll_port, if_neg (Ne.symm hj), hport, if_neg (Ne.symm hj), Port.restartOther, if_neg]
    · rfl
    · rw [isOpen_iff]
      rcases htx with h | h <;> simp [h]
  · rw [restartAll_port, if_neg (Ne.symm hj), hport, if_neg (Ne.symm hj), Port.restartOther,
      if_pos ((isOpen_iff _).mpr ⟨h1, h2⟩)]
    rfl
  · exact (restartAll_link _ k x).trans (restart_eq _)
  · simp only [State.restartAll, State.setTx, State.setPort]

end Sys2Proof.Safety
end

section
/-! SUPPORT. PURGE and DRAIN (O39, O40). -/

namespace Sys2Proof.Safety

open Sys2Proof.Machine

/-! ### Several records discarded -/

section
variable {s : State} {ns : List RecId}

theorem mem_of_mem_queueOf_discardOne {n m : RecId} {t : Target} (h : m ∈ queueOf (s.discardOne n) t) : m ∈ queueOf s t := by
  cases hr : s.record n with
  | none => rwa [State.discardOne_none hr] at h
  | some r =>
    rw [discardOne_queueOf hr] at h
    split at h
    · exact List.mem_of_mem_erase h
    · exact h

theorem mem_of_mem_queueOf_discardMany {m : RecId} {t : Target} (h : m ∈ queueOf (s.discardMany ns) t) : m ∈ queueOf s t := by
  induction ns generalizing s with
  | nil => exact h
  | cons n ns ih => exact mem_of_mem_queueOf_discardOne (ih (s := s.discardOne n) h)

/-- A queue whose records are all discarded is empty (R73, R74). -/
theorem ReferencesSound.drained (h : ReferencesSound s) {t : Target} (hns : ∀ n, n ∈ queueOf s t → n ∈ ns) :
    queueOf (s.discardMany ns) t = [] := by
  refine List.eq_nil_iff_forall_not_mem.mpr fun m hm => ?_
  obtain ⟨r, hr, -⟩ := (h.discardMany ns).queues t m hm
  rw [discardMany_record, if_pos (hns m (mem_of_mem_queueOf_discardMany hm))] at hr
  cases hr

theorem loan_of_discardMany {k : PortId} {l : Loan} (h : ((s.discardMany ns).port k).loan = some l) :
    (s.port k).loan = some l := by
  induction ns generalizing s with
  | nil => exact h
  | cons n ns ih =>
    have e := ih (s := s.discardOne n) h
    cases hr : s.record n with
    | none => rwa [State.discardOne_none hr] at e
    | some r =>
      rw [discardOne_loan (by rw [hr]; nofun)] at e
      split at e
      · cases e
      · exact e

/-- A loan of a discarded record is gone (R19). -/
theorem ReferencesSound.loan_discarded (h : ReferencesSound s) {k : PortId}
    (hl : ∀ l, (s.port k).loan = some l → l.recId ∈ ns) : ((s.discardMany ns).port k).loan = none := by
  cases e : ((s.discardMany ns).port k).loan with
  | none => rfl
  | some l =>
    obtain ⟨⟨r, hr, -⟩, -⟩ := (h.discardMany ns).loans k l e
    rw [discardMany_record, if_pos (hl l (loan_of_discardMany e))] at hr
    cases hr

theorem reservedFor_discardMany (h : ∀ n ∈ ns, ∀ r, s.record n = some r → r.state ≠ .assembling) (t : Target) :
    reservedFor (s.discardMany ns) t = reservedFor s t := by
  induction ns generalizing s with
  | nil => rfl
  | cons n ns ih =>
    have hone : reservedFor (s.discardOne n) t = reservedFor s t := by
      cases hr : s.record n with
      | none => rw [State.discardOne_none hr]
      | some r => rw [discardOne_reservedFor hr, if_neg fun c => h n (by simp) r hr c.1]
    refine (ih (s := s.discardOne n) fun m hm r hr => ?_).trans hone
    rw [State.discardOne_record] at hr
    split at hr
    · cases hr
    · exact h m (by simp [hm]) r hr

end

/-! ### What is left of a destination whose records are discarded -/

/-- What a purge or a drain leaves, once its event is passed on (R73, R74). -/
theorem purged_rest {s v : State} {d : Party} (h : ReferencesSound s)
    (hv : OnlyAccounts ((s.discardMany (s.committedOf d)).setRun d 0) v) :
    (v.qclass { dest := d, cls := .express }).recs = [] ∧ (v.qclass { dest := d, cls := .bulk }).recs = [] ∧
      (∀ q, (v.qclass q).reserved = (s.qclass q).reserved) ∧ ∀ n, n ∈ s.committedOf d → v.record n = none := by
  have empty (c : MsgClass) : (v.qclass { dest := d, cls := c }).recs = [] := by
    rw [hv.qclass]
    exact h.drained (t := .queue { dest := d, cls := c }) fun n hn => mem_committedOf.mpr ⟨c, hn⟩
  refine ⟨empty .express, empty .bulk, fun q => ?_, fun n hn => ?_⟩
  · rw [hv.qclass]
    exact reservedFor_discardMany (fun n hn r hr => h.committedOf hn hr) (.queue q)
  · rw [hv.record]
    exact (discardMany_record s _ n).trans (if_pos hn)

section
variable {s : State} {k j : PortId} {x : LinkId} {b : Byte} {early : Bool}

theorem exec_purge_inbox (ht : (s.port k).tx = .running .purge) (hi : (s.port k).inCount = 1) (hm : Manages s k)
    (hb : b = BitVec.ofNat 8 j.val) : exec (.purge k b early) s = answered k early 0x01 (s.purgeInbox j) := by
  have hs : s.byteStep k b = .purge := (byteStep_running ht b).trans (if_pos hi)
  have htarget : purgeTarget b = some (some j) := by
    have hne : b ≠ 4 := by
      rw [hb]
      rcases port_cases j with rfl | rfl | rfl | rfl <;> decide
    rw [purgeTarget, if_neg hne, hb, portOfByte_ofNat]
    rfl
  refine (if_pos hs).trans ?_
  rw [judgeAdmin_manages hm, htarget]
  rfl

theorem exec_purge_uq (ht : (s.port k).tx = .running .purge) (hi : (s.port k).inCount = 1) (hm : Manages s k)
    (hb : b = 4) : exec (.purge k b early) s = answered k early 0x01 s.purgeUq := by
  have hs : s.byteStep k b = .purge := (byteStep_running ht b).trans (if_pos hi)
  refine (if_pos hs).trans ?_
  rw [judgeAdmin_manages hm, hb]
  rfl

theorem exec_drain (ht : (s.port k).tx = .running .drain) (hi : (s.port k).inCount = 1) (hm : Manages s k)
    (hb : b = BitVec.ofNat 8 x.val) : exec (.drain k b early) s = answered k early 0x01 (s.drainLink x) := by
  have hs : s.byteStep k b = .drain := (byteStep_running ht b).trans (if_pos hi)
  refine (if_pos hs).trans ?_
  rw [judgeAdmin_manages hm, hb, linkOfByte_ofNat]
  rfl

end

theorem OnlyAccounts.run {s t : State} (h : OnlyAccounts s t) (p : Party) : t.run p = s.run p := by rw [h.rest]; rfl

/-- A loan's record is in the queue that the loan names (R106). -/
theorem ReferencesSound.mem_of_loan {s : State} (h : ReferencesSound s) {k : PortId} {l : Loan}
    (hl : (s.port k).loan = some l) : l.recId ∈ queueOf s (loanTarget k l) :=
  List.mem_of_mem_head? (h.loans k l hl).2

/-- Settles O39: the two targets of a purge. -/
theorem purgeEffect : Obligations.PurgeEffect := by
  intro k b early s ht hi hm
  refine ⟨fun j hb => ?_, fun hb => ?_⟩
  · intro e l ns held
    have hv := onlyAccounts_passOn ((s.discardMany ns).setRun (.host j) 0) s (s.returnedByMany ns)
    refine ⟨_, _, returns_many s ns, rfl, exec_purge_inbox ht hi hm hb, ?_, fun h => ?_⟩
    · exact (hv.run _).trans ((State.setRun_run _ _ _ _).trans (if_pos rfl))
    · obtain ⟨h1, h2, h3, h4⟩ := purged_rest h hv
      refine ⟨h1, h2, h3, h4, fun hh => (hv.loan j).trans (h.loan_discarded fun o ho => ?_)⟩
      have hq : o.queue ≠ .uq := by simpa [held, ho] using hh
      have hmem := h.mem_of_loan ho
      rw [loanTarget] at hmem
      cases hc : o.queue with
      | uq => exact absurd hc hq
      | inbox c =>
        rw [hc] at hmem
        exact mem_committedOf.mpr ⟨c, hmem⟩
  · intro held
    have hv := onlyAccounts_passOn (s.discardMany s.uq.recs) s (s.returnedByMany s.uq.recs)
    refine ⟨_, _, returns_many s _, rfl, ?_, fun h => ⟨?_, fun n hn => ?_, fun hh => ?_⟩⟩
    · rw [exec_purge_uq ht hi hm hb, State.purgeUq, hm.2]
      rfl
    · have hrecs : (s.discardMany s.uq.recs).uq.recs = [] := h.drained (t := .uq) fun n hn => hn
      have hres : (s.discardMany s.uq.recs).uq.reserved = s.uq.reserved :=
        reservedFor_discardMany (fun n hn r hr => h.queued (u := .uq) hn hr) .uq
      refine hv.uq.trans ?_
      rw [← hrecs, ← hres]
    · exact (hv.record n).trans ((discardMany_record s _ n).trans (if_pos hn))
    · refine (hv.loan k).trans (h.loan_discarded fun o ho => ?_)
      have hq : o.queue = .uq := by simpa [held, ho] using hh
      have hmem := h.mem_of_loan ho
      rwa [loanTarget, hq] at hmem

/-- The ABM that a drain makes due (R145, R171). -/
theorem drainAbm_eq (s : State) (x : LinkId) :
    s.drainAbm x =
      if ((s.link x).state == .active && (s.link x).sending.any fun sd => sd.progress != .eomBegun) = true then
        s.setLink x { s.link x with abmDue := true }
      else s := by
  unfold State.drainAbm
  cases (s.link x).sending with
  | none => simp
  | some sd => simp

theorem drainAbm_link (s : State) (x : LinkId) : ∃ a, (s.drainAbm x).link x = { s.link x with abmDue := a } := by
  rw [drainAbm_eq]
  split
  · exact ⟨true, by rw [State.setLink_link, if_pos rfl]⟩
  · exact ⟨_, rfl⟩

theorem drainAbm_rest (s : State) (x : LinkId) : s.drainAbm x = { s with links := (s.drainAbm x).links } := by
  rw [drainAbm_eq]
  split
  · rfl
  · rfl

theorem drainAbm_committedOf (s : State) (x : LinkId) : (s.drainAbm x).committedOf (.link x) = s.committedOf (.link x) := by
  rw [drainAbm_rest]
  rfl

theorem ReferencesSound.drainAbm {s : State} (h : ReferencesSound s) (x : LinkId) : ReferencesSound (s.drainAbm x) := by
  rw [drainAbm_eq]
  split
  · refine { h with sendings := fun y sd hsd => h.sendings y sd ?_ }
    rw [State.setLink_link] at hsd
    split at hsd
    · rename_i e
      rwa [e] at hsd
    · exact hsd
  · exact h

/-- Settles O40: the discards with an ABM due or not, and what is left of the link's classes. -/
theorem drainEffect : Obligations.DrainEffect := by
  intro k x b early s ht hi hm hb e l ns due s0
  have hs0 : s.drainAbm x = s0 := drainAbm_eq s x
  have hv := onlyAccounts_passOn ((s0.discardMany ns).setRun (.link x) 0) s (s.returnedByMany ns)
  refine ⟨_, _, returns_many s ns, rfl, ?_, ?_, fun h => ?_⟩
  · rw [exec_drain ht hi hm hb, State.drainLink, hs0]
    rfl
  · exact (hv.run _).trans ((State.setRun_run _ _ _ _).trans (if_pos rfl))
  · have h0 : ReferencesSound s0 := by
      rw [← hs0]
      exact h.drainAbm x
    have hns : s0.committedOf (.link x) = ns := by rw [← hs0]; exact drainAbm_committedOf s x
    rw [← hns] at hv ⊢
    obtain ⟨h1, h2, h3, h4⟩ := purged_rest h0 hv
    obtain ⟨o, ho, -⟩ := discardMany_link s0 (s0.committedOf (.link x)) x
    obtain ⟨a, ha⟩ := drainAbm_link s x
    rw [hs0] at ha
    rw [ha] at ho
    have hstate : ((s0.discardMany (s0.committedOf (.link x))).link x).state = (s.link x).state := by rw [ho]
    have hcredit : ((s0.discardMany (s0.committedOf (.link x))).link x).credit = (s.link x).credit := by rw [ho]
    have hreserved (q : QueueId) : (s0.qclass q).reserved = (s.qclass q).reserved := by
      rw [← hs0, drainAbm_rest]; rfl
    refine ⟨transmitterChoose_stands (.inr (.inr (.inr (.inr ?_)))), h1, h2, fun q => (h3 q).trans (hreserved q),
      h4, (hv.sending x).trans (h0.drained_sending x), (hv.state x).trans hstate,
      (congrArg Link.credit (hv.link x)).trans hcredit⟩
    obtain ⟨-, -, -, hnone⟩ := serviceOrder (.link x) _
    exact hnone h1 h2

end Sys2Proof.Safety
end

section
/-! SUPPORT. The discard path (O10). -/

namespace Sys2Proof.Safety

open Sys2Proof.Machine

/-! ### The discard path -/

section
variable {s : State} {n : RecId} {r : Record} (h : s.record n = some r)
include h

/-- What a discard touches (R19). -/
theorem discardOne_rest :
    s.discardOne n =
      { s with
        free := (s.discardOne n).free, records := (s.discardOne n).records, usage := (s.discardOne n).usage,
        slots := (s.discardOne n).slots, classes := (s.discardOne n).classes, uq := (s.discardOne n).uq,
        ports := (s.discardOne n).ports, links := (s.discardOne n).links } := by
  rw [State.discardOne_spec h]

theorem discard_eq :
    s.discard n = (s.discardOne n).passOn s { cells := !r.cells.isEmpty, falls := r.target.classes } := by
  rw [State.discard, State.returnedBy, h]

end

/-- The DEPTH watch of a port after classes fell (R38, R39). -/
theorem judgeDepth_port_eq (s : State) (falls : List QueueId) (k : PortId) :
    (s.judgeDepth falls).port k =
      match (s.port k).watch with
      | .depth q =>
        if q ∈ falls ∧ (s.qclass q).recs.length + (s.qclass q).reserved < (s.qclass q).depth then
          { (s.port k).raise .room with watch := .absent }
        else s.port k
      | .cells _ => s.port k
      | .absent => s.port k := by
  rw [judgeDepth_port, depthJudged]
  cases (s.port k).watch <;> rfl

/-- Settles O10: what the discard path clears, and what is passed on. -/
theorem discardEffect : Obligations.DiscardEffect := by
  refine ⟨fun n r s h => ?_, fun s before back => ?_⟩
  · have hne : s.record n ≠ none := by rw [h]; nofun
    refine ⟨discardOne_free h, ?_, fun m hm => ?_, ?_, fun p hp => ?_,
      fun ha => ⟨?_, fun p hp => ?_, fun t ht => ?_, ?_, fun t => ?_⟩,
      fun ha => ⟨fun p => ?_, fun t => ?_, fun t ht => ?_, ?_⟩, discardOne_depth h,
      fun k => discardOne_port s n k hne, fun x => discardOne_link s n x hne,      discardOne_rest h, discard_eq h⟩
    · exact (s.discardOne_record n n).trans (if_pos rfl)
    · exact (s.discardOne_record n m).trans (if_neg (Ne.symm hm))
    · exact (discardOne_used h _).trans (if_pos rfl)
    · exact (discardOne_used h p).trans (if_neg (Ne.symm hp))
    · exact (discardOne_slot h _).trans (if_pos ⟨ha, rfl⟩)
    · exact (discardOne_slot h p).trans (if_neg fun c => hp c.2)
    · exact (discardOne_reservedFor h t).trans (if_neg fun c => ht c.2.symm)
    · exact (discardOne_reservedFor h _).trans (if_pos ⟨ha, rfl⟩)
    · exact (discardOne_queueOf h t).trans (if_neg fun c => c.1 ha)
    · exact (discardOne_slot h p).trans (if_neg fun c => ha c.1)
    · exact (discardOne_reservedFor h t).trans (if_neg fun c => ha c.1)
    · exact (discardOne_queueOf h t).trans (if_neg fun c => ht c.2.symm)
    · exact (discardOne_queueOf h _).trans (if_pos ⟨ha, rfl⟩)
  · refine ⟨(s.judgeDepth back.falls).noteFalls before back.falls, judgeDepth_port_eq s back.falls, rfl, rfl, rfl⟩

end Sys2Proof.Safety
end

section
/-! SUPPORT. POST and its payload bytes (O19, O20, O21). -/

namespace Sys2Proof.Safety

open Sys2Proof.Machine

section
variable {s u : State} {k : PortId} {b dst control tag hi : Byte} {early : Bool}

/-! ### The judgement -/

theorem byteStep_postDue (ht : (s.port k).tx = .running .post) (hp : (s.port k).phase = .header)
    (hc : (s.port k).inCount = 5) (b : Byte) : s.byteStep k b = .post := by
  rw [byteStep_running ht]
  simp only [State.requestStep, hp, hc, if_true]

theorem postHeader_of (hb : (s.port k).inBytes = [dst, control, tag, hi]) (b : Byte) :
    (s.port k).postHeader b = { dst := dst, control := control, tag := tag, length := hi.toNat * 256 + b.toNat } := by
  rw [Port.postHeader, hb]
  rfl

/-- The answer of a POST (R88, R99). -/
theorem answerPost_eq (u : State) (k : PortId) (b : Byte) (early : Bool) (ph : PostPhase) (w : Option Watch) (st : Status) :
    u.answerPost k b early ph w st =
      u.setPort k
        (({ u.port k with
              phase := ph, watch := w.getD (u.port k).watch, inBytes := (u.port k).inBytes ++ [b]
              timer := postTimer u } : Port).shift early st.code) := by
  simp only [State.answerPost, State.postPhase, State.startTimer, State.shift, State.setPort_port, if_true,
    State.setPort_setPort]
  rfl

/-- A POST with no fall noted is judged as the state stands (R100). -/
theorem exec_post_judged (hb : s.byteStep k b = .post) (ha : s.ahead = none) :
    exec (.post k b early) s =
      postOutcome s k ((s.port k).postHeader b) b early (s.judgePost k ((s.port k).postHeader b)) := by
  have e := execPost_due (early := early) hb
  rw [State.verdict_none ha] at e
  exact e

/-- A POST with a fall noted is FULL as before the fall, or is judged without the note (R66, log 30). -/
theorem exec_post_noted {q : QueueId} (hb : s.byteStep k b = .post) (ha : s.ahead = some q) :
    exec (.post k b early) s =
        postOutcome { s with ahead := none, ties := s.ties + 1 } k ((s.port k).postHeader b) b early (.full q) ∨
      exec (.post k b early) s = exec (.post k b early) { s with ahead := none, ties := s.ties + 1 } := by
  have e := execPost_due (early := early) hb
  rcases s.verdict_cases k ((s.port k).postHeader b) with ⟨h, -⟩ | ⟨q', h, hv | hv⟩
  · rw [ha] at h; cases h
  · rw [ha] at h
    cases h
    rw [hv] at e
    exact .inl e
  · rw [hv] at e
    exact .inr (e.trans (exec_post_judged (s := { s with ahead := none, ties := s.ties + 1 }) hb rfl).symm)

/-! ### The checks of a POST in their order (R100) -/

variable {h : PostHeader} {d : Party}

theorem judgePost_fenced (hf : (s.port k).fenced = true) : s.judgePost k h = .refused .fenced := if_pos hf

/-- A fence apart, a POST with a length outside 1 to 1024 is refused. -/
theorem judgePost_length (hf : (s.port k).fenced = false) (hl : h.length = 0 ∨ 1024 < h.length) :
    s.judgePost k h = .refused .length :=
  (if_neg (by simp [hf])).trans (if_pos hl)

section
variable (hf : (s.port k).fenced = false) (h1 : 1 ≤ h.length) (h2 : h.length ≤ 1024)
include hf h1 h2

theorem judgePost_noRoute (hl : s.lookup h.dst (controlHops h.control) = .noRoute) :
    s.judgePost k h = .refused .noRoute := by
  refine (if_neg (by simp [hf])).trans ((if_neg (show ¬(h.length = 0 ∨ 1024 < h.length) by omega)).trans ?_)
  rw [hl]

theorem judgePost_hops (hl : s.lookup h.dst (controlHops h.control) = .hops) : s.judgePost k h = .refused .hops := by
  refine (if_neg (by simp [hf])).trans ((if_neg (show ¬(h.length = 0 ∨ 1024 < h.length) by omega)).trans ?_)
  rw [hl]

theorem judgePost_output {q : QueueId} {n : Nat} (hl : s.lookup h.dst (controlHops h.control) = .output q.dest)
    (hq : controlClass h.control = q.cls) (hn : cellsOf h.length = n) :
    s.judgePost k h =
      if (s.qclass q).occupancy < (s.qclass q).depth then
        if s.grants (.host k) n then .taken q n else .noCells n
      else .full q := by
  refine (if_neg (by simp [hf])).trans ((if_neg (show ¬(h.length = 0 ∨ 1024 < h.length) by omega)).trans ?_)
  rw [hl]
  simp only [hq, hn]

end

end

theorem exists_freeRecord {s : State} (h : ∃ m, s.record m = none) : ∃ m, s.freeRecord = some m := by
  obtain ⟨m, hm⟩ := h
  refine Option.isSome_iff_exists.mp (List.find?_isSome.mpr ⟨m, List.mem_finRange m, ?_⟩)
  rw [hm]
  rfl

/-- Settles O19: the first check that fails, or TAKEN. -/
theorem postJudgement : Obligations.PostJudgement := by
  intro k dst control tag hi lo early s ht hp hc hin len n cls hops found room refused unheeded
  have hb := byteStep_postDue ht hp hc lo
  have hh := postHeader_of hin lo
  have hrefused (u : State) (hu : u.port k = s.port k) (ht : u.postTimeout = s.postTimeout) (w : Option Watch)
      (st : Status) :
      Host.Outcome.next (u.answerPost k lo early .refused w st).resume =
        refused u (w.getD (s.port k).watch) st.code := by
    rw [answerPost_eq, hu, hin, postTimer, ht]
    rfl
  refine ⟨fun q hq => ?_, fun ha hf => ?_, fun ha hf => ⟨fun hlen => ?_, fun h1 h2 => ?_⟩⟩
  · rcases exec_post_noted (early := early) hb hq with e | e
    · exact .inl (e.trans (hrefused unheeded rfl rfl (some (.depth q)) .full))
    · exact .inr e
  · rw [exec_post_judged hb ha, judgePost_fenced hf]
    exact hrefused s rfl rfl none .fenced
  · rw [exec_post_judged hb ha, hh, judgePost_length hf hlen]
    exact hrefused s rfl rfl none .length
  · rw [exec_post_judged hb ha, hh]
    have hout (d : Party) (hd : found = .output d) := judgePost_output (s := s) (k := k) (q := { dest := d, cls := cls })
      (n := n) (h := { dst := dst, control := control, tag := tag, length := hi.toNat * 256 + lo.toNat }) hf h1 h2 hd rfl rfl
    refine ⟨fun hr => ?_, fun hr => ?_, fun d hd => ⟨fun hroom => ?_, fun hroom hg => ?_, fun hroom hg hm => ?_⟩⟩
    · rw [judgePost_noRoute hf h1 h2 hr]
      exact hrefused s rfl rfl none .noRoute
    · rw [judgePost_hops hf h1 h2 hr]
      exact hrefused s rfl rfl none .hops
    · rw [hout d hd, if_neg hroom]
      exact hrefused s rfl rfl _ .full
    · rw [hout d hd, if_pos hroom, if_neg (ne_true_of_eq_false hg)]
      exact hrefused s rfl rfl _ .noCells
    · obtain ⟨m, hm⟩ := exists_freeRecord hm
      rw [hout d hd, if_pos hroom, if_pos hg]
      simp only [postOutcome, hm]
      refine ⟨_, rfl, ?_⟩
      rw [(onlyAccounts_resume _).port k, answerPost_eq, State.setPort_port, if_pos rfl]
      rfl

/-! ### TAKEN -/

section
variable {s : State} {k : PortId} {h : PostHeader} {q : QueueId} {n : Nat} {m : RecId}

theorem posted_used (s : State) (k : PortId) (h : PostHeader) (q : QueueId) (n : Nat) (m : RecId) (p : Party) :
    (posted s k h q n m).used p = if p = .host k then s.used p + n else s.used p := by
  refine (State.setUsed_used _ (.host k) _ p).trans ?_
  by_cases hp : p = .host k
  · rw [if_pos hp, if_pos hp.symm, hp]
  · rw [if_neg hp, if_neg (Ne.symm hp)]
    rfl

theorem posted_qclass (s : State) (k : PortId) (h : PostHeader) (q : QueueId) (n : Nat) (m : RecId) (q' : QueueId) :
    (posted s k h q n m).qclass q' =
      if q' = q then { s.qclass q with reserved := (s.qclass q).reserved + 1 } else s.qclass q' := by
  refine (State.setClass_qclass _ q _ q').trans ?_
  simp only [eq_comm]
  rfl

theorem posted_record (s : State) (k : PortId) (h : PostHeader) (q : QueueId) (n : Nat) (m : RecId) (i : RecId) :
    (posted s k h q n m).record i = if i = m then some (s.postRecord k h q n) else s.record i := record_setRecord _ _ _ _

theorem posted_slots (s : State) (k : PortId) (h : PostHeader) (q : QueueId) (n : Nat) (m : RecId) (p : Party) :
    (posted s k h q n m).slot p = if p = .host k then some m else s.slot p := by
  refine (State.setSlot_slot _ (.host k) _ p).trans ?_
  simp only [eq_comm]
  rfl

/-- TAKEN tests the low mark on the state with the record made (R4, R101). -/
theorem takePost_eq (s : State) (k : PortId) (h : PostHeader) (q : QueueId) (n : Nat) (m : RecId) :
    s.takePost k h q n m =
      if s.lowMark ≠ 0 ∧ s.lowMark ≤ s.free.length ∧ s.free.length - n < s.lowMark then
        (posted s k h q n m).raiseMgr .cellsLow
      else posted s k h q n m := by
  have hlen : (posted s k h q n m).free.length = s.free.length - n := List.length_drop
  rw [← hlen]
  rfl

theorem takePost_port (s : State) (k : PortId) (h : PostHeader) (q : QueueId) (n : Nat) (m : RecId) (j : PortId) :
    (s.takePost k h q n m).port j =
      if s.lowMark ≠ 0 ∧ s.lowMark ≤ s.free.length ∧ s.free.length - n < s.lowMark then (s.port j).noteMgr .cellsLow
      else s.port j := by
  rw [takePost_eq]
  split
  · exact State.raiseMgr_port _ _ _
  · rfl

theorem takePost_mgrSet (s : State) (k : PortId) (h : PostHeader) (q : QueueId) (n : Nat) (m : RecId) :
    (s.takePost k h q n m).mgrSet =
      if s.lowMark ≠ 0 ∧ s.lowMark ≤ s.free.length ∧ s.free.length - n < s.lowMark then s.mgrSet ||| 0x80
      else s.mgrSet := by
  rw [takePost_eq]
  split
  · rfl
  · rfl

theorem takePost_rest (s : State) (k : PortId) (h : PostHeader) (q : QueueId) (n : Nat) (m : RecId) :
    s.takePost k h q n m =
      { posted s k h q n m with ports := (s.takePost k h q n m).ports, mgrSet := (s.takePost k h q n m).mgrSet } := by
  rw [takePost_eq]
  split
  · rfl
  · rfl

end

/-- Settles O20: the record made, and the port in FILLING. -/
theorem postTaken : Obligations.PostTaken := by
  intro k dst control tag hi lo early d m s ht hp hc hin hf len n cls hops q h1 h2 hd hroom hg hm hlow ha low noted
  have hb := byteStep_postDue ht hp hc lo
  have hh := postHeader_of hin lo
  let header : PostHeader := { dst := dst, control := control, tag := tag, length := len }
  have hjudged := judgePost_output (s := s) (k := k) (q := q) (n := n) (h := header) hf h1 h2 hd rfl rfl
  rw [if_pos hroom, if_pos hg] at hjudged
  have hexec := exec_post_judged (early := early) hb ha
  rw [hh, hjudged] at hexec
  simp only [postOutcome, freeRecord_of hm hlow] at hexec
  have hport (j : PortId) : (s.takePost k header q n m).port j = noted j := takePost_port s k header q n m j
  have hrest := takePost_rest s k header q n m
  have hmgr := takePost_mgrSet s k header q n m
  rw [answerPost_eq] at hexec
  refine ⟨_, hexec, ?_, fun p => ?_, fun q' => ?_, fun i => ?_, fun p => ?_, ?_, fun j hj => ?_, hmgr, ?_⟩
  · show (s.takePost k header q n m).free = _
    rw [hrest]; rfl
  · show (s.takePost k header q n m).used p = _
    rw [hrest]; exact posted_used s k header q n m p
  · show (s.takePost k header q n m).qclass q' = _
    rw [hrest]; exact posted_qclass s k header q n m q'
  · show (s.takePost k header q n m).record i = _
    rw [hrest]; exact posted_record s k header q n m i
  · show (s.takePost k header q n m).slot p = _
    rw [hrest]; exact posted_slots s k header q n m p
  · rw [State.setPort_port, if_pos rfl, hport]
    have hbytes : (noted k).inBytes = [dst, control, tag, hi] := by
      rw [← hin]
      simp only [noted]
      split <;> rfl
    have htimer : postTimer (s.takePost k header q n m) = postTimer s := by rw [hrest]; rfl
    rw [hbytes, htimer]
    rfl
  · rw [State.setPort_port, if_neg (Ne.symm hj), hport]
  · rw [hrest]
    rfl

/-! ### Payload bytes -/

section
variable {s : State} {k : PortId} {b : Byte} {early : Bool} {n : RecId} {r : Record}

/-- The post timer restarted and a byte formed (R88). -/
def timed (u : State) (k : PortId) (early : Bool) (code : Byte) : Port :=
  ({ u.port k with timer := postTimer u } : Port).shift early code

theorem exec_postPayloadByte (ht : (s.port k).tx = .running .post) (hp : (s.port k).phase = .filling) :
    exec (.postPayloadByte k b early) s =
      .next ((s.fillPost k b).setPort k (timed (s.fillPost k b) k early 0x00)).resume := by
  have hb : s.byteStep k b = .payload := by
    rw [byteStep_running ht]
    simp only [State.requestStep, hp]
  refine (if_pos hb).trans ?_
  simp only [State.startTimer, State.shift, State.setPort_port, if_true, State.setPort_setPort]
  rfl

theorem fillPost_of (hs : s.slot (.host k) = some n) (hr : s.record n = some r) :
    s.fillPost k b = if r.filled < r.length then s.storePayload n b else s := by
  simp only [State.fillPost, hs, hr]

end

/-- Settles O21: the byte at its place, or none beyond the length. -/
theorem postPayloadByteStored : Obligations.PostPayloadByteStored := by
  intro k b early n r s ht hp hs hr hw answered
  rw [exec_postPayloadByte ht hp, fillPost_of hs hr]
  refine ⟨fun c hlen hcell => ?_, fun hlen => ?_⟩
  · intro a
    rw [if_pos hlen]
    obtain ⟨h1, h2, h3, h4⟩ := storePayload_spec (b := b) hr (payloadAddr_of hcell) hw
    have hrest := storePayload_rest s n b
    have hport (j : PortId) : (s.storePayload n b).port j = s.port j := by rw [hrest]; rfl
    have htimed : timed (s.storePayload n b) k early 0x00 = answered := by
      rw [timed, hport, postTimer, hrest]
    refine ⟨_, rfl, h1, h2, h3, h4, ?_, fun j hj => ?_, ?_⟩
    · rw [State.setPort_port, if_pos rfl, htimed]
    · rw [State.setPort_port, if_neg (Ne.symm hj), hport]
    · show State.setPort _ k _ = _
      rw [hrest]
      rfl
  · rw [if_neg (Nat.not_lt.mpr hlen)]
    rfl

end Sys2Proof.Safety
end
